-- ==== Sys2Proof/Word.lean ====
section
/-! DEFINITION. The bit-vector types the spec's ports, ROMs and blocks are made of (spec rules R7, R13, R14, R30). -/

namespace Sys2Proof

/-- One byte: a character lane of `tok_in` or `tok_out` (rules R13, R14, R54). -/
abbrev Byte := BitVec 8

/-- One ROM word: a 7-bit symbol code of `FWD`, or a word `{inv, val[5:0]}` of `INV`; also the
7-bit address of `INV` (rules R30, R31). -/
abbrev Code := BitVec 7

/-- One six-bit block of a value, `0..63`, and the address of `FWD` (rules R9, R30). -/
abbrev Block := BitVec 6

/-- One word of an integer operand or result (rules R13, R14, R36). -/
abbrev Word64 := BitVec 64

/-- A 128-bit value `{high, low}` (rules R36, R59). -/
abbrev Word128 := BitVec 128

end Sys2Proof
end

