-- ==== Sys2Proof/Config.lean ====
section
/-! DEFINITION. What is fixed when the block is built: the token capacity, the alphabet `ALPHA` the spec leaves open, and the output ports' unspecified values before the first transaction. -/

namespace Sys2Proof.Config

/-- `TOK_CAP`, the number of lanes of the token input port (rules R6, R13). -/
def tokCap : Nat := 23

/-- The distinguished block value 63, all six bits set (rules R5, R83). -/
def ones : Block := 63#6

/-- A forward alphabet table: the 64 symbol codes in value order (rule R30). -/
abbrev AlphaTable := Vector Code 64

/-- The constraints on `ALPHA` (rule R80). (a) and (b), total and 7-bit, are the type's; (c) every
code is at least 32; (d) no two values share a code. Nothing stricter is assumed. -/
abbrev AlphaOk (t : AlphaTable) : Prop :=
  (∀ c ∈ t.toList, 32 ≤ c.toNat) ∧ t.toList.Nodup

/-- The spec's first test instance of `ALPHA`, `T0(v) = 0x30 + v` (rule R85): not libSAN's table. -/
def t0 : AlphaTable := Vector.ofFn fun v => BitVec.ofNat 7 (0x30 + v.val)

/-- The spec's second test instance of `ALPHA`, `T1(v) = 0x7E - v` (rule R85): not libSAN's table. -/
def t1 : AlphaTable := Vector.ofFn fun v => BitVec.ofNat 7 (0x7E - v.val)

/-- An admissible alphabet: a table with the proof that it meets rule R80. The default values only
show that the type has an element, which `alpha` below needs; no proof can see which one it is. -/
structure Alphabet where
  /-- The 64 symbol codes. -/
  table : AlphaTable := t0
  /-- The table meets rule R80. -/
  ok : AlphaOk table := by decide +kernel
deriving Inhabited

/-- DESIGN CHOICE (notes/assumptions/1.md). `ALPHA`, the table the block is built with. The spec leaves it OPEN
(rules R6, R80, 92_eei_decisions.md D6), so it has no body: a claim about it holds for every table. -/
opaque alpha : Alphabet

/-- DESIGN CHOICE (notes/assumptions/3.md). The `status` port before the first transaction: unspecified (rule R21). -/
opaque statusAtReset : BitVec 3

/-- DESIGN CHOICE (notes/assumptions/3.md). The `tok_out_len` port before the first transaction: unspecified (rule R21). -/
opaque tokOutLenAtReset : BitVec 5

/-- DESIGN CHOICE (notes/assumptions/3.md). The `tok_out` lanes before the first transaction: unspecified (rule R21). -/
opaque tokOutAtReset : Vector Byte 22

/-- DESIGN CHOICE (notes/assumptions/3.md). The `res_hi` port before the first transaction: unspecified (rule R21). -/
opaque resHiAtReset : Word64

/-- DESIGN CHOICE (notes/assumptions/3.md). The `res_lo` port before the first transaction: unspecified (rule R21). -/
opaque resLoAtReset : Word64

end Sys2Proof.Config
end

