-- ==== Sys2Proof/Syntax.lean ====
section
/-! DEFINITION. The 21 operations of spec/opcode_table.json, one constructor each (rule R55). The operation word carries no operands (rule R50); they travel on the input ports. -/

namespace Sys2Proof

/-- The supported integer widths `W` (rules R1, R5). -/
inductive Width where
  | w24
  | w32
  | w48
  | w64
  | w128
deriving DecidableEq, Repr

/-- The operation class field `cls = op[4:3]` (rule R51). -/
inductive OpClass where
  /-- `0b00`: encode. -/
  | enc
  /-- `0b01`: decode, zero-extended result. -/
  | decu
  /-- `0b10`: decode, sign-extended result. -/
  | decs
  /-- `0b11`: validate, status only. -/
  | valid
deriving DecidableEq, Repr

/-- The 21 legal operations, in the order of rule R55. -/
inductive Instr where
  | enc24
  | enc32
  | enc48
  | enc64
  | enc128
  | dec24u
  | dec32u
  | dec48u
  | dec64u
  | dec128u
  | dec24s
  | dec32s
  | dec48s
  | dec64s
  | dec128s
  | valid0
  | valid24
  | valid32
  | valid48
  | valid64
  | valid128
deriving DecidableEq, Repr

/-- Why a word is not an operation of the block. -/
inductive DecodeError where
  /-- One of the 11 reserved operation words (rule R56). -/
  | reservedOp (op : BitVec 5)
  /-- A byte with a bit set above `op[4]`: the operation word has five bits (rule R50). -/
  | notOpWord (b : Byte)
  /-- No byte at all. -/
  | noWord
deriving DecidableEq, Repr

end Sys2Proof
end

