-- ==== Sys2Proof/WellFormed.lean ====
section
/-! DEFINITION. The checks on what is put to the block: the operation word, the length of an input token, the alphabet table. An `Instr` has no operands, so every term of it is well formed. -/

namespace Sys2Proof

/-- The class of an operation (rule R55). -/
def Instr.opClass : Instr → OpClass
  | .enc24 => .enc
  | .enc32 => .enc
  | .enc48 => .enc
  | .enc64 => .enc
  | .enc128 => .enc
  | .dec24u => .decu
  | .dec32u => .decu
  | .dec48u => .decu
  | .dec64u => .decu
  | .dec128u => .decu
  | .dec24s => .decs
  | .dec32s => .decs
  | .dec48s => .decs
  | .dec64s => .decs
  | .dec128s => .decs
  | .valid0 => .valid
  | .valid24 => .valid
  | .valid32 => .valid
  | .valid48 => .valid
  | .valid64 => .valid
  | .valid128 => .valid

/-- The width an operation selects; `none` is `VALID0`, which expects no width (rule R55). -/
def Instr.width? : Instr → Option Width
  | .enc24 => some .w24
  | .enc32 => some .w32
  | .enc48 => some .w48
  | .enc64 => some .w64
  | .enc128 => some .w128
  | .dec24u => some .w24
  | .dec32u => some .w32
  | .dec48u => some .w48
  | .dec64u => some .w64
  | .dec128u => some .w128
  | .dec24s => some .w24
  | .dec32s => some .w32
  | .dec48s => some .w48
  | .dec64s => some .w64
  | .dec128s => some .w128
  | .valid0 => none
  | .valid24 => some .w24
  | .valid32 => some .w32
  | .valid48 => some .w48
  | .valid64 => some .w64
  | .valid128 => some .w128

/-- The 11 reserved operation words, listed as rule R56 lists them. -/
def reservedOps : List (BitVec 5) :=
  [0b00000#5, 0b00110#5, 0b00111#5, 0b01000#5, 0b01110#5, 0b01111#5, 0b10000#5, 0b10110#5,
    0b10111#5, 0b11110#5, 0b11111#5]

/-- An operation word is well formed when it is not reserved (rule R56). -/
def opWordOk (op : BitVec 5) : Bool := !reservedOps.contains op

/-- The input token's length is well formed for an operation: an encode ignores it; every other
class takes `0..TOK_CAP` (rules R13, R58). -/
def tokLenOk (i : Instr) (len : BitVec 5) : Bool :=
  match i.opClass with
  | .enc => true
  | .decu => decide (len.toNat ≤ Config.tokCap)
  | .decs => decide (len.toNat ≤ Config.tokCap)
  | .valid => decide (len.toNat ≤ Config.tokCap)

/-- A table may be built into the block when it meets rule R80. -/
def alphaTableOk (t : Config.AlphaTable) : Bool := decide (Config.AlphaOk t)

/-- Every term of `Instr` is well formed: rule R50 gives an operation word no operand fields. -/
def Instr.wellFormed (_ : Instr) : Bool := true

end Sys2Proof
end

