-- ==== Sys2Proof/Decode.lean ====
section
/-! DEFINITION. The decoder of operation words, total on any bytes and refusing by name, and the encoder, written from the table of rule R55. -/

namespace Sys2Proof

/-- `cls = op[4:3]` (rules R50, R51). -/
def opClassOf (op : BitVec 5) : OpClass :=
  match (op.extractLsb' 3 2).toNat with
  | 0 => .enc
  | 1 => .decu
  | 2 => .decs
  | _ => .valid

/-- `wsel = op[2:0]` (rule R50). -/
def wselOf (op : BitVec 5) : BitVec 3 := op.extractLsb' 0 3

/-- The width a `wsel` selects, `none` for 0, 6 and 7 (rule R52). -/
def widthOf (wsel : BitVec 3) : Option Width :=
  match wsel.toNat with
  | 1 => some .w24
  | 2 => some .w32
  | 3 => some .w48
  | 4 => some .w64
  | 5 => some .w128
  | _ => none

/-- The encode operation of a width (rule R55). -/
def encInstr : Width → Instr
  | .w24 => .enc24
  | .w32 => .enc32
  | .w48 => .enc48
  | .w64 => .enc64
  | .w128 => .enc128

/-- The unsigned decode operation of a width (rule R55). -/
def decuInstr : Width → Instr
  | .w24 => .dec24u
  | .w32 => .dec32u
  | .w48 => .dec48u
  | .w64 => .dec64u
  | .w128 => .dec128u

/-- The signed decode operation of a width (rule R55). -/
def decsInstr : Width → Instr
  | .w24 => .dec24s
  | .w32 => .dec32s
  | .w48 => .dec48s
  | .w64 => .dec64s
  | .w128 => .dec128s

/-- The validate operation that expects a width (rule R55). -/
def validInstr : Width → Instr
  | .w24 => .valid24
  | .w32 => .valid32
  | .w48 => .valid48
  | .w64 => .valid64
  | .w128 => .valid128

/-- The operation a class and a `wsel` select: `wsel = 0` is legal with `VALID` only, 6 and 7 with no
class (rules R52, R55, R56). -/
def selectInstr (cls : OpClass) (wsel : BitVec 3) : Option Instr :=
  match cls with
  | .enc => (widthOf wsel).map encInstr
  | .decu => (widthOf wsel).map decuInstr
  | .decs => (widthOf wsel).map decsInstr
  | .valid => if wsel = 0#3 then some .valid0 else (widthOf wsel).map validInstr

/-- The decoder of the `op` port: total, "every one of the 32 values is either in this table or
reserved" (rules R55, R56). -/
def decodeOp (op : BitVec 5) : Except DecodeError Instr :=
  match selectInstr (opClassOf op) (wselOf op) with
  | some i => .ok i
  | none => .error (.reservedOp op)

/-- The decoder on bytes: the operation word is the low five bits of one byte, the rest of which is
0 (DESIGN CHOICE, notes/assumptions/11.md: the spec has a 5-bit port and no bytes). Answers the bytes after it. -/
def decode : List Byte → Except DecodeError (Instr × List Byte)
  | [] => .error .noWord
  | b :: rest =>
    if b.toNat < 32 then
      match decodeOp (b.setWidth 5) with
      | .ok i => .ok (i, rest)
      | .error e => .error e
    else .error (.notOpWord b)

/-- The operation word of an operation, read off the table of rule R55 (`cls` then `wsel`). -/
def encode : Instr → BitVec 5
  | .enc24 => 0b00001#5
  | .enc32 => 0b00010#5
  | .enc48 => 0b00011#5
  | .enc64 => 0b00100#5
  | .enc128 => 0b00101#5
  | .dec24u => 0b01001#5
  | .dec32u => 0b01010#5
  | .dec48u => 0b01011#5
  | .dec64u => 0b01100#5
  | .dec128u => 0b01101#5
  | .dec24s => 0b10001#5
  | .dec32s => 0b10010#5
  | .dec48s => 0b10011#5
  | .dec64s => 0b10100#5
  | .dec128s => 0b10101#5
  | .valid0 => 0b11000#5
  | .valid24 => 0b11001#5
  | .valid32 => 0b11010#5
  | .valid48 => 0b11011#5
  | .valid64 => 0b11100#5
  | .valid128 => 0b11101#5

/-- The byte that holds an operation's word. -/
def encodeBytes (i : Instr) : List Byte := [(encode i).setWidth 8]

/-- The bytes of a table word, the lowest eight bits first. -/
def tableBytes (nbits w : Nat) : List Byte :=
  (List.range ((nbits + 7) / 8)).map fun k => BitVec.ofNat 8 (w % 2 ^ nbits / 256 ^ k)

/-- The host's view of the decoder: the operation a table word of `nbits` bits stands for; `none` for
a reserved word and for one with a bit above `op[4]` set. -/
def decodeTableWord (nbits w : Nat) : Option Instr :=
  match decode (tableBytes nbits w) with
  | .ok (i, rest) => if rest.all (fun b => b == 0#8) then some i else none
  | .error _ => none

end Sys2Proof
end

