-- ==== Sys2Proof/Machine/Flags.lean ====
section
/-! DEFINITION. The status values and their codes on the 3-bit `status` port, the block's only flag-like output (rules R15, R57). -/

namespace Sys2Proof.Machine

/-- The classification of a transaction: the source's five kinds and the spec's `ILLEGAL_REQ` (rules R57, R192 to R196). -/
inductive Status where
  /-- `OK`: the operation succeeded. -/
  | ok
  /-- `EMPTY`: no characters (rule R192). -/
  | empty
  /-- `HIGH_BIT`: a byte with its top bit set (rule R193). -/
  | highBit
  /-- `WRONG_CHAR`: a 7-bit byte that is no symbol (rule R194). -/
  | wrongChar
  /-- `TOO_LONG`: not a canonical-length token of the width (rule R195). -/
  | tooLong
  /-- `ILLEGAL_REQ`: a reserved operation word or a token length above the capacity (rule R196). -/
  | illegalReq
deriving DecidableEq, Repr

/-- The code a status has on the port; 5 and 6 are never produced (rule R57). -/
def Status.code : Status → BitVec 3
  | .ok => 0#3
  | .empty => 1#3
  | .highBit => 2#3
  | .wrongChar => 3#3
  | .tooLong => 4#3
  | .illegalReq => 7#3

end Sys2Proof.Machine
end

