-- ==== Sys2Proof/Machine/Rom.lean ====
section
/-! DEFINITION. The block's only memory: the two read-only lookup ROMs `FWD` and `INV` (rules R19, R30 to R34), how `INV` is made from `FWD`, and the reads of one word. Nothing writes a ROM (rule R33), so there is no write. -/

namespace Sys2Proof.Machine

/-- The contents of the two ROMs, every address populated (rules R30, R31, R34). -/
structure Memory where
  /-- `FWD`: 64 words of 7 bits, word `v` the symbol code of block value `v` (rule R30). -/
  fwd : Vector Code 64
  /-- `INV`: 128 words `{inv, val[5:0]}`, word `c` for character code `c` (rule R31). -/
  inv : Vector Code 128
deriving DecidableEq, Repr

/-- The `INV` word of a block value: `{0, v}` (rule R31). -/
def symbolWord (v : Block) : Code := 0#1 ++ v

/-- The `INV` word of a code that is no symbol: `inv = 1`, `val = 0` (rule R31). -/
def nonSymbolWord : Code := 1#1 ++ 0#6

/-- The word of `INV` at address `c`, determined by `FWD` (rules R31, R32). -/
def invWordAt (fwd : Vector Code 64) (c : Code) : Code :=
  match fwd.toList.idxOf? c with
  | some v => symbolWord (BitVec.ofNat 6 v)
  | none => nonSymbolWord

/-- The whole inverse table of a forward table (rules R31, R32). -/
def inverseTable (fwd : Vector Code 64) : Vector Code 128 :=
  Vector.ofFn fun c => invWordAt fwd (BitVec.ofNat 7 c.val)

/-- The ROM contents of a block built with a given alphabet table (rules R31, R33, R222). -/
def Memory.ofAlpha (fwd : Vector Code 64) : Memory :=
  { fwd := fwd, inv := inverseTable fwd }

/-- The ROMs are as a block is built: `FWD` meets rule R80 and `INV` is its inverse (rules R31, R222). -/
abbrev Memory.wf (m : Memory) : Prop :=
  Config.AlphaOk m.fwd ∧ m.inv = inverseTable m.fwd

/-- `FWD[v]`: one word of the forward ROM; every 6-bit address is populated (rule R30). -/
def readFwd (m : Memory) (v : Block) : Code := m.fwd[v.toNat]'v.isLt

/-- `INV[c]`: one word of the inverse ROM; every 7-bit address is populated (rule R31). -/
def readInv (m : Memory) (c : Code) : Code := m.inv[c.toNat]'c.isLt

/-- The `inv` bit of an `INV` word (rule R31). -/
def invFlag (w : Code) : Bool := w.getLsbD 6

/-- The `val` field of an `INV` word (rule R31). -/
def invVal (w : Code) : Block := w.extractLsb' 0 6

/-- `symbolOf(v) = FWD[v]` (rule R81). -/
def symbolOf (m : Memory) (v : Block) : Code := readFwd m v

/-- `valueOf(c)`: the value of a symbol code, none for any other code (rule R82). -/
def valueOf (m : Memory) (c : Code) : Option Block :=
  if invFlag (readInv m c) then none else some (invVal (readInv m c))

end Sys2Proof.Machine
end

