-- ==== Sys2Proof/Machine/State.lean ====
section
/-! DEFINITION. The state of the block: the input ports, whether a transaction stands on them, the output ports and the two ROMs. The spec gives it no register, no program counter, no mode and no writable memory (rules R10, R11, R16, R33). -/

namespace Sys2Proof.Machine

/-- The input ports, sampled once per transaction (rule R13). -/
structure Inputs where
  /-- `op`: the operation word. -/
  op : BitVec 5
  /-- `val_hi`: the high word of the integer operand. -/
  valHi : Word64
  /-- `val_lo`: the low word of the integer operand. -/
  valLo : Word64
  /-- `tok_in_len`: the number of characters of the input token. -/
  tokInLen : BitVec 5
  /-- `tok_in[0..22]`: the input token's lanes, lane 0 the first character. -/
  tokIn : Vector Byte 23
deriving DecidableEq, Repr

/-- The output ports, all driven once per transaction (rule R14). -/
structure Outputs where
  /-- `status`: the result classification. -/
  status : BitVec 3
  /-- `tok_out_len`: the number of characters of the output token. -/
  tokOutLen : BitVec 5
  /-- `tok_out[0..21]`: the output token's lanes, lane 0 the first character. -/
  tokOut : Vector Byte 22
  /-- `res_hi`: bits 127..64 of the decoded value. -/
  resHi : Word64
  /-- `res_lo`: bits 63..0 of the decoded value. -/
  resLo : Word64
deriving DecidableEq, Repr

/-- The block between two transactions: what the host presents, whether it has presented a transaction
that is not yet answered (DEDUCED, notes/assumptions/5.md), what the block last answered
(notes/assumptions/6.md), and the constant ROMs (rules R12, R19, R221). -/
structure State where
  /-- The values on the input ports. -/
  inp : Inputs
  /-- A transaction is presented and not yet answered; without one the block does nothing (rule R221). -/
  presented : Bool
  /-- The values on the output ports. -/
  out : Outputs
  /-- The contents of the ROMs. -/
  mem : Memory
deriving DecidableEq, Repr

/-- The reasons the machine stops with a fault: none. "There is no waiting on another agent, and
therefore no hang and no stuck state" (rule R229), and every error is a status (rules R190, R191).
An empty type: that no step faults is a fact of the type, and safe. -/
inductive Fault where
deriving DecidableEq, Repr

/-- The reasons the machine gives no meaning. -/
inductive Refusal where
  /-- Raised by `exec`, for an operation with no meaning yet; safe. No arm of `exec` raises it. -/
  | notModelled (mnemonic : String)
deriving DecidableEq, Repr

/-- The input ports with nothing presented (DESIGN CHOICE, notes/assumptions/4.md): every line 0. -/
def Inputs.reset : Inputs :=
  { op := 0#5, valHi := 0#64, valLo := 0#64, tokInLen := 0#5, tokIn := Vector.replicate 23 0#8 }

/-- The output ports before the first transaction: unspecified (rule R21), so free
(DESIGN CHOICE, notes/assumptions/3.md). -/
def Outputs.reset : Outputs :=
  { status := Config.statusAtReset, tokOutLen := Config.tokOutLenAtReset, tokOut := Config.tokOutAtReset,
    resHi := Config.resHiAtReset, resLo := Config.resLoAtReset }

/-- The block right after reset: no transaction presented (rule R221), "the ROMs hold `ALPHA` and its inverse before, during and after any
reset" and no other value set (rules R21, R220). -/
def State.reset : State :=
  { inp := Inputs.reset, presented := false, out := Outputs.reset, mem := Memory.ofAlpha Config.alpha.table }

end Sys2Proof.Machine
end

