-- ==== Sys2Proof/Machine/Operands.lean ====
section
/-! DEFINITION. The operand forms (integer and token), the result forms (token and value) and the block arithmetic of a width (rules R5, R36, R53, R54, R59). -/

namespace Sys2Proof.Machine

/-- `N(W) = ceil(W/6)`: the blocks of a width, and its greatest token length (rule R5). -/
def blocksOf (w : Nat) : Nat := (w + 5) / 6

/-- `REST(W) = W mod 6` (rule R5). -/
def restOf (w : Nat) : Nat := w % 6

/-- The operand of an encode below width 128: `val_lo[W-1:0]`, the other bits ignored (rule R53). -/
def intOperand (w : Nat) (inp : Inputs) : BitVec w := inp.valLo.extractLsb' 0 w

/-- The operand of `ENC128`: `{val_hi, val_lo}` (rules R36, R53). -/
def intOperand128 (inp : Inputs) : Word128 := inp.valHi ++ inp.valLo

/-- The number of characters presented, `nat(tok_in_len)` (rule R54). -/
def tokenLen (inp : Inputs) : Nat := inp.tokInLen.toNat

/-- The input token `tok_in[0 .. tok_in_len-1]`; later lanes are ignored (rules R13, R54). -/
def tokenOperand (inp : Inputs) : List Byte := inp.tokIn.toList.take (tokenLen inp)

/-- The test of an illegal request on a token operation: a length above the capacity (rule R58 (b)). -/
abbrev tokenTooWide (inp : Inputs) : Prop := Config.tokCap < tokenLen inp

/-- The 7-bit code on a character lane, bit 7 left out (rules R31, R163). -/
def codeOf (b : Byte) : Code := b.extractLsb' 0 7

/-- The lane that holds a symbol code: `{0, code}` (rules R54, R112). -/
def laneOf (c : Code) : Byte := 0#1 ++ c

/-- The unsigned result extension, `zext_128(R)` (rules R59, R133). -/
def zext128 {w : Nat} (r : BitVec w) : Word128 := r.setWidth 128

/-- The signed result extension, `sext_128(R)` (rules R59, R133). -/
def sext128 {w : Nat} (r : BitVec w) : Word128 := r.signExtend 128

/-- The outputs of a transaction that produces a status and no data: every data output is zero
(rules R14, R175, R191). -/
def statusOutputs (st : Status) : Outputs :=
  { status := st.code, tokOutLen := 0#5, tokOut := Vector.replicate 22 0#8, resHi := 0#64, resLo := 0#64 }

/-- The outputs of a successful encode: the characters from lane 0 on, `0x00` after them, no result
(rule R112). -/
def tokenOutputs (chars : List Code) : Outputs :=
  { status := Status.ok.code
    tokOutLen := BitVec.ofNat 5 chars.length
    tokOut := Vector.ofFn fun j => match chars[j.val]? with
      | some c => laneOf c
      | none => 0#8
    resHi := 0#64
    resLo := 0#64 }

/-- The outputs of a successful decode: the 128-bit result, no token (rules R14, R146). -/
def resultOutputs (r : Word128) : Outputs :=
  { status := Status.ok.code
    tokOutLen := 0#5
    tokOut := Vector.replicate 22 0#8
    resHi := r.extractLsb' 64 64
    resLo := r.extractLsb' 0 64 }

end Sys2Proof.Machine
end

