-- ==== Sys2Proof/Machine/Ops.lean ====
section
/-! DEFINITION. The named operations on the state: the host's presenting of inputs, reading the operation word, driving the outputs, and `raise`, the block's whole exception mechanism (rules R12, R191). There is no return from an exception: nothing is saved and no control moves (rules R200, R201). -/

namespace Sys2Proof.Machine

/-- The host presents a transaction: a value on every input port (rule R12). DESIGN CHOICE
(notes/assumptions/18.md): presented over a transaction that is not answered yet, it replaces that one,
which is then never answered; the spec leaves the handshake open. -/
def State.present (s : State) (i : Inputs) : State := { s with inp := i, presented := true }

/-- The block answers the transaction: it drives every output port, once, and the transaction is over
(rules R12, R14). -/
def State.answer (s : State) (o : Outputs) : State := { s with out := o, presented := false }

/-- A block with the same ports built with another alphabet table (rules R31, R222). -/
def State.withAlphabet (s : State) (t : Config.AlphaTable) : State := { s with mem := Memory.ofAlpha t }

/-- The operation the host selects with the `op` port (rules R11, R50). -/
def fetch (s : State) : Except DecodeError Instr := decodeOp s.inp.op

/-- With no transaction presented the block does nothing (rule R221). -/
def idle (s : State) : Host.Outcome State Fault Refusal := .next s

/-- A transaction's end: it always completes, with the outputs driven and nothing else changed
(rules R12, R20, R33). -/
def complete (s : State) (o : Outputs) : Host.Outcome State Fault Refusal := .next (s.answer o)

/-- `raise <Status>`: the transaction ends with that status and every data output zero. "Nothing else
happens": no control transfer, no state saved, no mode change (rule R191). -/
def raise (st : Status) (s : State) : Host.Outcome State Fault Refusal := complete s (statusOutputs st)

/-- A transaction with a reserved operation word is an illegal request (rules R56, R58 (a)). -/
def raiseReserved (s : State) : Host.Outcome State Fault Refusal := raise .illegalReq s

end Sys2Proof.Machine
end

