-- ==== Sys2Proof/Machine/Validator.lean ====
section
/-! DEFINITION. The Validator: `VALID0`, `VALID24`, `VALID32`, `VALID48`, `VALID64`, `VALID128` (rules R160 to R175). The decoders use the same classification. -/

namespace Sys2Proof.Machine

/-- A byte outside the 7-bit range (rule R162). -/
def hasHighBit (b : Byte) : Bool := b.getLsbD 7

/-- A byte whose 7-bit code is no alphabet symbol: `INV[tok[j][6:0]].inv = 1` (rule R163). -/
def notSymbol (m : Memory) (b : Byte) : Bool := invFlag (readInv m (codeOf b))

/-- The block value of a character: `INV[tok[j][6:0]].val` (rules R146, R164). -/
def charValue (m : Memory) (b : Byte) : Block := invVal (readInv m (codeOf b))

/-- The leading-character test for `rest != 0`: every bit of `f` at position `rest` and above equals
the sign bit `f[rest-1]` (rules R164, R165; the bit condition is the normative form, 90_conflicts.md C3). -/
def leadingOk (rest : Nat) (f : Block) : Bool :=
  f.extractLsb' rest (6 - rest) ==
    if f.getLsbD (rest - 1) then BitVec.allOnes (6 - rest) else 0#(6 - rest)

/-- The canonical-length checker, for `expectedBits = e` not 0: too many characters, or a full-length
token whose leading block is not sign-consistent (rules R164, R165). -/
def lengthBad (m : Memory) (tok : List Byte) (e : Nat) : Bool :=
  decide (blocksOf e < tok.length) ||
    (tok.length == blocksOf e && restOf e != 0 &&
      match tok with
      | [] => false
      | c :: _ => !leadingOk (restOf e) (charValue m c))

/-- `valid(token, expectedBits)`: one of the source's five classifications, `expectedBits = 0` meaning
that no width is expected. Defined for every natural `expectedBits` (rules R160 to R164, R174). -/
def valid (m : Memory) (tok : List Byte) (e : Nat) : Status :=
  if tok.isEmpty then .empty
  else if tok.any hasHighBit then .highBit
  else if tok.any (notSymbol m) then .wrongChar
  else if e != 0 && lengthBad m tok e then .tooLong
  else .ok

/-- A `VALID*` transaction at `expectedBits = e`: a status, and no data whatever it is (rule R175). -/
def validWith (e : Nat) (s : State) : Host.Outcome State Fault Refusal :=
  if tokenTooWide s.inp then raise .illegalReq s
  else complete s (statusOutputs (valid s.mem (tokenOperand s.inp) e))

/-- `VALID0` (rule R166). -/
def execValid0 (s : State) : Host.Outcome State Fault Refusal := validWith 0 s

/-- `VALID24` (rule R167). -/
def execValid24 (s : State) : Host.Outcome State Fault Refusal := validWith 24 s

/-- `VALID32` (rule R168). -/
def execValid32 (s : State) : Host.Outcome State Fault Refusal := validWith 32 s

/-- `VALID48` (rule R169). -/
def execValid48 (s : State) : Host.Outcome State Fault Refusal := validWith 48 s

/-- `VALID64` (rule R170). -/
def execValid64 (s : State) : Host.Outcome State Fault Refusal := validWith 64 s

/-- `VALID128` (rule R171). -/
def execValid128 (s : State) : Host.Outcome State Fault Refusal := validWith 128 s

end Sys2Proof.Machine
end

