-- ==== Sys2Proof/Machine/Decoder.lean ====
section
/-! DEFINITION. The Decoders: `DEC24U` to `DEC128U` and `DEC24S` to `DEC128S` (rules R130 to R147), with the one-word accumulator of the narrower widths and the two-word one of width 128. -/

namespace Sys2Proof.Machine

/-- The accumulator's seed: all ones when the first value equals 63, else all zeros; it is not a test of
the block's top bit (rule R130). The spec has no empty value list; its seed here is never used. -/
def seed (w : Nat) (vals : List Block) : BitVec w :=
  if vals.head? = some Config.ones then BitVec.allOnes w else 0#w

/-- One character into the accumulator: `(acc << 6) | zext_W(val)` (rule R131). -/
def accStep {w : Nat} (acc : BitVec w) (v : Block) : BitVec w := (acc <<< 6) ||| v.setWidth w

/-- `dec_W(vals)`, widths 24, 32, 48, 64: the first character is shifted in like the others (rules R130, R131, R133). -/
def decodeValue (w : Nat) (vals : List Block) : BitVec w := vals.foldl accStep (seed w vals)

/-- The two-word accumulator of width 128, `high` the more significant (rule R18). -/
structure Pair where
  /-- The high word. -/
  high : Word64
  /-- The low word. -/
  low : Word64
deriving DecidableEq, Repr

/-- Both words seeded with the same all-0 or all-1 pattern (rule R130). -/
def pairSeed (vals : List Block) : Pair := { high := seed 64 vals, low := seed 64 vals }

/-- One character into the pair; `high` takes the six bits that leave `low`, read before `low` changes (rule R132). -/
def pairStep (p : Pair) (v : Block) : Pair :=
  { high := (p.high <<< 6) ||| (p.low.extractLsb' 58 6).setWidth 64
    low := (p.low <<< 6) ||| v.setWidth 64 }

/-- `dec_128(vals) = {high, low}` (rules R130, R132, R133). -/
def decodeValue128 (vals : List Block) : Word128 :=
  let p := vals.foldl pairStep (pairSeed vals)
  p.high ++ p.low

/-- The common procedure of a `DEC*` transaction: the token is classified at the operation's own width
and a value is computed only when the class is `OK` (rule R146). `result` is the operation's 128-bit
result of the character values. -/
def decodeWith (w : Nat) (result : List Block → Word128) (s : State) : Host.Outcome State Fault Refusal :=
  if tokenTooWide s.inp then raise .illegalReq s
  else
    match valid s.mem (tokenOperand s.inp) w with
    | .ok => complete s (resultOutputs (result ((tokenOperand s.inp).map (charValue s.mem))))
    | st => raise st s

/-- `DEC24U` (rule R135). -/
def execDec24u (s : State) : Host.Outcome State Fault Refusal := decodeWith 24 (fun vals => zext128 (decodeValue 24 vals)) s

/-- `DEC32U` (rule R136). -/
def execDec32u (s : State) : Host.Outcome State Fault Refusal := decodeWith 32 (fun vals => zext128 (decodeValue 32 vals)) s

/-- `DEC48U` (rule R137). -/
def execDec48u (s : State) : Host.Outcome State Fault Refusal := decodeWith 48 (fun vals => zext128 (decodeValue 48 vals)) s

/-- `DEC64U` (rule R138). -/
def execDec64u (s : State) : Host.Outcome State Fault Refusal := decodeWith 64 (fun vals => zext128 (decodeValue 64 vals)) s

/-- `DEC128U` (rule R139). -/
def execDec128u (s : State) : Host.Outcome State Fault Refusal := decodeWith 128 (fun vals => zext128 (decodeValue128 vals)) s

/-- `DEC24S` (rule R140). -/
def execDec24s (s : State) : Host.Outcome State Fault Refusal := decodeWith 24 (fun vals => sext128 (decodeValue 24 vals)) s

/-- `DEC32S` (rule R141). -/
def execDec32s (s : State) : Host.Outcome State Fault Refusal := decodeWith 32 (fun vals => sext128 (decodeValue 32 vals)) s

/-- `DEC48S` (rule R142). -/
def execDec48s (s : State) : Host.Outcome State Fault Refusal := decodeWith 48 (fun vals => sext128 (decodeValue 48 vals)) s

/-- `DEC64S` (rule R143). -/
def execDec64s (s : State) : Host.Outcome State Fault Refusal := decodeWith 64 (fun vals => sext128 (decodeValue 64 vals)) s

/-- `DEC128S` (rule R144). -/
def execDec128s (s : State) : Host.Outcome State Fault Refusal := decodeWith 128 (fun vals => sext128 (decodeValue128 vals)) s

end Sys2Proof.Machine
end

