-- ==== Sys2Proof/Machine/Splitter.lean ====
section
/-! DEFINITION. The Block Splitter (rules R90 to R93). -/

namespace Sys2Proof.Machine

/-- `X = sext_{6N}(V)`: the operand extended to whole blocks (rules R53, R90). -/
def extendToBlocks {w : Nat} (v : BitVec w) : BitVec (6 * blocksOf w) := v.signExtend (6 * blocksOf w)

/-- `split_W(V)`: the blocks `b[i] = X[6(N-1-i)+5 : 6(N-1-i)]`, most significant first (rule R90). -/
def split {w : Nat} (v : BitVec w) : List Block :=
  (List.range (blocksOf w)).map fun i => (extendToBlocks v).extractLsb' (6 * (blocksOf w - 1 - i)) 6

end Sys2Proof.Machine
end

