-- ==== Sys2Proof/Machine/Trimmer.lean ====
section
/-! DEFINITION. The Canonical Trimmer (rules R100 to R102). -/

namespace Sys2Proof.Machine

/-- Whether the scan may pass a block, judged by the block after it (rule R100). -/
def droppable (b next : Block) : Bool :=
  if next = Config.ones then b == Config.ones else b == 0#6

/-- `trim(b)`: the scan stops at the first block that is not droppable, and at the last block at the
latest (rules R100, R101). The spec has no empty block list; the answer 0 there is never used. -/
def trim : List Block → Nat
  | [] => 0
  | [_] => 0
  | b :: next :: rest => if droppable b next then trim (next :: rest) + 1 else 0

/-- The surviving blocks `b[k..N-1]`, `k = trim(b)` (rule R100). -/
def kept (b : List Block) : List Block := b.drop (trim b)

end Sys2Proof.Machine
end

