-- ==== Sys2Proof/Machine/Encoder.lean ====
section
/-! DEFINITION. The Encoders: `ENC24`, `ENC32`, `ENC48`, `ENC64`, `ENC128` (rules R110 to R118). -/

namespace Sys2Proof.Machine

/-- The block values of `encode_W(V)`: the operand split, then trimmed (rule R110). -/
def encodeBlocks {w : Nat} (v : BitVec w) : List Block := kept (split v)

/-- `encode_W(V)`: each surviving block mapped through the alphabet (rule R110). -/
def encodeValue {w : Nat} (m : Memory) (v : BitVec w) : List Code := (encodeBlocks v).map (symbolOf m)

/-- An `ENC<W>` transaction on operand `V`: always `OK` (rule R112). -/
def encodeWith {w : Nat} (v : BitVec w) (s : State) : Host.Outcome State Fault Refusal :=
  complete s (tokenOutputs (encodeValue s.mem v))

/-- `ENC24` (rule R113). -/
def execEnc24 (s : State) : Host.Outcome State Fault Refusal := encodeWith (intOperand 24 s.inp) s

/-- `ENC32` (rule R114). -/
def execEnc32 (s : State) : Host.Outcome State Fault Refusal := encodeWith (intOperand 32 s.inp) s

/-- `ENC48` (rule R115). -/
def execEnc48 (s : State) : Host.Outcome State Fault Refusal := encodeWith (intOperand 48 s.inp) s

/-- `ENC64` (rule R116). -/
def execEnc64 (s : State) : Host.Outcome State Fault Refusal := encodeWith (intOperand 64 s.inp) s

/-- `ENC128` (rule R117). -/
def execEnc128 (s : State) : Host.Outcome State Fault Refusal := encodeWith (intOperand128 s.inp) s

end Sys2Proof.Machine
end

