-- ==== Sys2Proof/Machine/Dispatch.lean ====
section
/-! DEFINITION. One arm per operation, each one direct call of its meaning. -/

namespace Sys2Proof.Machine

/-- What a transaction of the given operation does (rule R55). -/
def exec (i : Instr) (s : State) : Host.Outcome State Fault Refusal :=
  match i with
  | .enc24 => Sys2Proof.Machine.execEnc24 s
  | .enc32 => Sys2Proof.Machine.execEnc32 s
  | .enc48 => Sys2Proof.Machine.execEnc48 s
  | .enc64 => Sys2Proof.Machine.execEnc64 s
  | .enc128 => Sys2Proof.Machine.execEnc128 s
  | .dec24u => Sys2Proof.Machine.execDec24u s
  | .dec32u => Sys2Proof.Machine.execDec32u s
  | .dec48u => Sys2Proof.Machine.execDec48u s
  | .dec64u => Sys2Proof.Machine.execDec64u s
  | .dec128u => Sys2Proof.Machine.execDec128u s
  | .dec24s => Sys2Proof.Machine.execDec24s s
  | .dec32s => Sys2Proof.Machine.execDec32s s
  | .dec48s => Sys2Proof.Machine.execDec48s s
  | .dec64s => Sys2Proof.Machine.execDec64s s
  | .dec128s => Sys2Proof.Machine.execDec128s s
  | .valid0 => Sys2Proof.Machine.execValid0 s
  | .valid24 => Sys2Proof.Machine.execValid24 s
  | .valid32 => Sys2Proof.Machine.execValid32 s
  | .valid48 => Sys2Proof.Machine.execValid48 s
  | .valid64 => Sys2Proof.Machine.execValid64 s
  | .valid128 => Sys2Proof.Machine.execValid128 s

end Sys2Proof.Machine
end

