-- ==== Sys2Proof/Machine/Step.lean ====
section
/-! DEFINITION. One step is one transaction when one is presented (rule R12): the operation the `op` port selects runs on what the other input ports hold. Otherwise the block does nothing (rule R221). -/

namespace Sys2Proof.Machine

/-- The presented transaction, answered on the output ports: the selected operation, or an illegal
request when the operation word is reserved (rules R12, R55, R56, R58). "The block does nothing until
a host presents a transaction, and then does only that transaction" (rule R221). -/
def step (s : State) : Host.Outcome State Fault Refusal :=
  if s.presented then
    match fetch s with
    | .ok i => exec i s
    | .error _ => raiseReserved s
  else idle s

/-- The host presents a transaction with a table word on the `op` port; the five wires carry its low five bits
(notes/assumptions/5.md; over an unanswered transaction, notes/assumptions/18.md). -/
def State.withFetchWord (s : State) (nbits w : Nat) : State :=
  s.present { s.inp with op := BitVec.ofNat 5 (w % 2 ^ nbits) }

end Sys2Proof.Machine
end

