-- ==== Sys2Proof/Safety.lean ====
section
/-! DEFINITION. The words claims are stated in: what a lane holds, what an answer carries, what a presented token is, when a run is safe, and the spec's second forms of the algorithms (the forward scan of rule R101, the integer formula of 44_decoder.md section 1). -/

namespace Sys2Proof.Machine

/-! ## Ports -/

/-- Lane `j` of the input token port; past the port, 0 (never read: lengths are at most 23). -/
def laneIn (inp : Inputs) (j : Nat) : Byte := (inp.tokIn[j]?).getD 0#8

/-- Lane `j` of the output token port; past the port, 0. -/
def laneOut (o : Outputs) (j : Nat) : Byte := (o.tokOut[j]?).getD 0#8

/-- The 128-bit result `{res_hi, res_lo}` (rule R36). -/
def resultOf (o : Outputs) : Word128 := o.resHi ++ o.resLo

/-- No token on the output ports: the length and every lane are zero (rule R14). -/
abbrev NoToken (o : Outputs) : Prop := o.tokOutLen = 0#5 ∧ ∀ j < 22, laneOut o j = 0#8

/-- Every data output is zero (rules R14, R191). -/
abbrev NoData (o : Outputs) : Prop := NoToken o ∧ o.resHi = 0#64 ∧ o.resLo = 0#64

/-- An answer carries a token of block values: `OK`, its length, the symbols from lane 0 on, zero
lanes after them, no result (rule R112). -/
abbrev CarriesBlocks (m : Memory) (o : Outputs) (vals : List Block) : Prop :=
  o.status = 0#3 ∧ o.tokOutLen.toNat = vals.length ∧
    (∀ j < 22, laneOut o j = match vals[j]? with
      | some v => 0#1 ++ readFwd m v
      | none => 0#8) ∧
    o.resHi = 0#64 ∧ o.resLo = 0#64

/-- What rule R14 asks of every answer of a block with the given ROMs: a status code that rule R57
lists, no data beside a status that is not `OK`, a token of at most 22 symbols followed by zero
lanes, and never a token and a result together. -/
structure OutputsOk (m : Memory) (o : Outputs) : Prop where
  /-- Codes 5 and 6 are never produced. -/
  status_listed : o.status ∈ [0#3, 1#3, 2#3, 3#3, 4#3, 7#3]
  /-- No data beside an error. -/
  error_has_no_data : o.status ≠ 0#3 → NoData o
  /-- The token fits the port. -/
  token_fits : o.tokOutLen.toNat ≤ 22
  /-- Every character of the token is an alphabet symbol with bit 7 clear. -/
  characters_are_symbols : ∀ j < o.tokOutLen.toNat, ∃ v, laneOut o j = 0#1 ++ readFwd m v
  /-- Lanes past the token are zero. -/
  padding_is_zero : ∀ j < 22, o.tokOutLen.toNat ≤ j → laneOut o j = 0#8
  /-- A token comes without a result. -/
  token_without_result : o.tokOutLen ≠ 0#5 → o.resHi = 0#64 ∧ o.resLo = 0#64

/-! ## Transactions -/

/-- The codes of the statuses, number by number as the table of rule R57 lists them. Statements compare the
`status` port with these, not with the codes the machine computes. -/
def listedCode : Status → BitVec 3
  | .ok => 0#3
  | .empty => 1#3
  | .highBit => 2#3
  | .wrongChar => 3#3
  | .tooLong => 4#3
  | .illegalReq => 7#3

/-- The frame of a transaction from `s` to `t`: the input ports and the ROMs are as they were, and no
transaction is presented any more. Beside them `State` holds the output ports only (rules R12, R33). -/
abbrev Over (s t : State) : Prop := t.inp = s.inp ∧ t.mem = s.mem ∧ t.presented = false

/-- Operation `i` answers a token of block values, and leaves the inputs and the ROMs as they are. -/
def AnswersBlocks (i : Instr) (s : State) (vals : List Block) : Prop :=
  ∃ t, exec i s = .next t ∧ Over s t ∧ CarriesBlocks s.mem t.out vals

/-- Operation `i` answers a status, by its listed code, and no data, and leaves the inputs and the ROMs as they are. -/
def AnswersStatus (i : Instr) (s : State) (st : Status) : Prop :=
  ∃ t, exec i s = .next t ∧ Over s t ∧ t.out.status = listedCode st ∧ NoData t.out

/-- Operation `i` answers `OK` with a 128-bit result and no token, and leaves the inputs and the ROMs
as they are. -/
def AnswersResult (i : Instr) (s : State) (r : Word128) : Prop :=
  ∃ t, exec i s = .next t ∧ Over s t ∧ t.out.status = 0#3 ∧ NoToken t.out ∧
    t.out.resHi = r.extractLsb' 64 64 ∧ t.out.resLo = r.extractLsb' 0 64

/-- The input ports present the token of the given block values: the length, and on each lane below it
a byte with bit 7 clear whose `INV` word is `{0, value}` (rules R31, R54). -/
abbrev SymbolToken (s : State) (vals : List Block) : Prop :=
  s.inp.tokInLen.toNat = vals.length ∧ vals.length ≤ 23 ∧
    ∀ j < vals.length, (laneIn s.inp j).getLsbD 7 = false ∧
      some (readInv s.mem (codeOf (laneIn s.inp j))) = (vals[j]?).map symbolWord

/-- Some presented byte has bit 7 set (rule R162). -/
abbrev SomeHighBit (s : State) : Prop := ∃ j < s.inp.tokInLen.toNat, (laneIn s.inp j).getLsbD 7 = true

/-- Some presented byte's code is no symbol: its `INV` word has `inv = 1` (rule R163). -/
abbrev SomeNonSymbol (s : State) : Prop :=
  ∃ j < s.inp.tokInLen.toNat, invFlag (readInv s.mem (codeOf (laneIn s.inp j))) = true

/-- The four refusals that every token operation makes before any length test, in their order of
priority (rules R58 (b), R161, R162, R163, R198). -/
def RefusesBadStrings (i : Instr) : Prop :=
  (∀ s : State, 23 < s.inp.tokInLen.toNat → AnswersStatus i s .illegalReq) ∧
  (∀ s : State, s.inp.tokInLen.toNat = 0 → AnswersStatus i s .empty) ∧
  (∀ s : State, 1 ≤ s.inp.tokInLen.toNat → s.inp.tokInLen.toNat ≤ 23 → SomeHighBit s →
    AnswersStatus i s .highBit) ∧
  (∀ s : State, 1 ≤ s.inp.tokInLen.toNat → s.inp.tokInLen.toNat ≤ 23 → ¬ SomeHighBit s →
    SomeNonSymbol s → AnswersStatus i s .wrongChar)

/-- A list of block values fits a width of `n` blocks: not empty, at most `n`, and at full length led
by a value of `leads` (rules R164, R165). -/
abbrev FitsWidth (n : Nat) (leads : List Block) (vals : List Block) : Prop :=
  1 ≤ vals.length ∧ vals.length ≤ n ∧ (vals.length = n → ∃ f ∈ leads, vals.head? = some f)

/-- A list of block values that is refused `TOO_LONG` at a width of `n` blocks (rules R164, R165). -/
abbrev TooLongFor (n : Nat) (leads : List Block) (vals : List Block) : Prop :=
  n < vals.length ∨ (vals.length = n ∧ ∀ f ∈ leads, vals.head? ≠ some f)

/-- The values a full-length token of width 24 or 48 may begin with: all of them (rule R165). -/
def anyLead : List Block := (List.range 64).map (BitVec.ofNat 6)

/-- The values a full-length token of width 32 or 128 may begin with (rule R165). -/
def rest2Leads : List Block := [0#6, 1#6, 62#6, 63#6]

/-- The values a full-length token of width 64 may begin with: `0..7` and `56..63` (rule R165). -/
def rest4Leads : List Block :=
  [0#6, 1#6, 2#6, 3#6, 4#6, 5#6, 6#6, 7#6, 56#6, 57#6, 58#6, 59#6, 60#6, 61#6, 62#6, 63#6]

/-- The values the one-word accumulator takes while it consumes block values: it is seeded by the
first of them (rule R130) and then shifts every one of them in (rule R131). -/
def AccumulatorRun (w : Nat) (vals : List Block) (acc : Nat → BitVec w) : Prop :=
  acc 0 = (if vals.head? = some 63#6 then BitVec.allOnes w else 0#w) ∧
    ∀ j, ∀ h : j < vals.length, acc (j + 1) = (acc j <<< 6) ||| (vals[j]).setWidth w

/-- The values the two-word accumulator takes: both words seeded alike (rule R130), then at every
character the six bits that leave `low` enter `high` (rule R132). -/
def PairRun (vals : List Block) (high low : Nat → Word64) : Prop :=
  high 0 = (if vals.head? = some 63#6 then BitVec.allOnes 64 else 0#64) ∧ low 0 = high 0 ∧
    ∀ j, ∀ h : j < vals.length,
      high (j + 1) = (high j <<< 6) ||| ((low j).extractLsb' 58 6).setWidth 64 ∧
      low (j + 1) = (low j <<< 6) ||| (vals[j]).setWidth 64

/-- The token an answer carries is on the input ports of another state, lane for lane (rules R35, R54). -/
abbrev PresentsTokenOf (u : State) (o : Outputs) : Prop :=
  u.inp.tokInLen = o.tokOutLen ∧ ∀ j < o.tokOutLen.toNat, laneIn u.inp j = laneOut o j

/-- A validate operation at a width of `n` blocks: `OK` for a token that fits, `TOO_LONG` for one of
symbols that does not, and the common refusals (rules R164, R165, R175). -/
def ValidatesTokens (i : Instr) (n : Nat) (leads : List Block) : Prop :=
  (∀ s vals, SymbolToken s vals → FitsWidth n leads vals → AnswersStatus i s .ok) ∧
  (∀ s vals, SymbolToken s vals → TooLongFor n leads vals → AnswersStatus i s .tooLong) ∧
  RefusesBadStrings i

/-- The refusals of a decode operation at a width of `n` blocks: the common ones, and `TOO_LONG` (rule R146). -/
def RefusesUnfitTokens (i : Instr) (n : Nat) (leads : List Block) : Prop :=
  (∀ s vals, SymbolToken s vals → TooLongFor n leads vals → AnswersStatus i s .tooLong) ∧
  RefusesBadStrings i

/-- The unsigned and the signed decode of a width of at most 64 bits: on every token that fits, the
one-word accumulator's last value, zero-extended and sign-extended; else a refusal (rules R130, R131,
R133, R146). -/
def DecodesTokens (decu decs : Instr) (w n : Nat) (leads : List Block) : Prop :=
  (∀ s vals, SymbolToken s vals → FitsWidth n leads vals →
    ∃ acc : Nat → BitVec w, AccumulatorRun w vals acc ∧
      AnswersResult decu s ((acc vals.length).setWidth 128) ∧
      AnswersResult decs s ((acc vals.length).signExtend 128)) ∧
  RefusesUnfitTokens decu n leads ∧ RefusesUnfitTokens decs n leads

/-- The unsigned and the signed decode give the listed values on the listed tokens. -/
def DecodesListed (decu decs : Instr) {w : Nat} (rows : List (List Block × BitVec w)) : Prop :=
  ∀ row ∈ rows, ∀ s, SymbolToken s row.1 →
    AnswersResult decu s (row.2.setWidth 128) ∧ AnswersResult decs s (row.2.signExtend 128)

/-- The encode operation gives the listed tokens on the listed operands. -/
def EncodesListed (enc : Instr) {w : Nat} (operand : Inputs → BitVec w) (rows : List (BitVec w × List Block)) :
    Prop :=
  ∀ row ∈ rows, ∀ s : State, operand s.inp = row.1 → AnswersBlocks enc s row.2

/-- The output token is the given bytes, from lane 0 on. -/
abbrev CarriesBytes (o : Outputs) (bytes : List Byte) : Prop :=
  o.tokOutLen.toNat = bytes.length ∧ ∀ j < bytes.length, bytes[j]? = some (laneOut o j)

/-- The input ports present the given bytes, from lane 0 on (rule R54). -/
abbrev PresentsBytes (s : State) (bytes : List Byte) : Prop :=
  s.inp.tokInLen.toNat = bytes.length ∧ ∀ j < bytes.length, bytes[j]? = some (laneIn s.inp j)

/-- An encode gives the given bytes on the given operand in a block built with the spec's test
alphabet `T0` (rule R85). -/
def EncodesUnderT0 (enc : Instr) {w : Nat} (operand : Inputs → BitVec w) (v : BitVec w) (bytes : List Byte) :
    Prop :=
  ∀ s : State, s.mem = Memory.ofAlpha Config.t0 → operand s.inp = v →
    ∃ t, exec enc s = .next t ∧ t.out.status = 0#3 ∧ CarriesBytes t.out bytes

/-- A decode gives the given result on the given bytes in a block built with the spec's test alphabet
`T0` (rule R85). -/
def DecodesUnderT0 (dec : Instr) (bytes : List Byte) (r : Word128) : Prop :=
  ∀ s : State, s.mem = Memory.ofAlpha Config.t0 → PresentsBytes s bytes → AnswersResult dec s r

/-- A validate gives the listed statuses on the listed strings in a block built with the spec's test
alphabet `T0` (rule R85). -/
def ValidatesUnderT0 (val : Instr) (rows : List (List Byte × Status)) : Prop :=
  ∀ row ∈ rows, ∀ s : State, s.mem = Memory.ofAlpha Config.t0 → PresentsBytes s row.1 →
    AnswersStatus val s row.2

/-- The round trip at a width: the token an encode answers, put on the input ports of any block with
the same ROMs, decodes to the operand, zero-extended and sign-extended (rule R145). -/
def RoundTrips (enc decu decs : Instr) {w : Nat} (operand : Inputs → BitVec w) : Prop :=
  ∀ s : State, s.mem.wf → ∃ t, exec enc s = .next t ∧ t.out.status = 0#3 ∧
    ∀ u : State, u.mem = s.mem → PresentsTokenOf u t.out →
      AnswersResult decu u ((operand s.inp).setWidth 128) ∧
      AnswersResult decs u ((operand s.inp).signExtend 128)

/-- The token an encode answers is accepted by the validator of its width, and with no width expected
(rules R111, R173). -/
def EncodesAcceptedTokens (enc val : Instr) : Prop :=
  ∀ s : State, s.mem.wf → ∃ t, exec enc s = .next t ∧
    ∀ u : State, u.mem = s.mem → PresentsTokenOf u t.out →
      AnswersStatus val u .ok ∧ AnswersStatus .valid0 u .ok

/-- An encode below width 128 reads only its low `w` operand bits and `FWD` (rules R13, R112). -/
def EncodeReadsOnlyLowBits (enc : Instr) (w : Nat) : Prop :=
  ∀ s s' : State, s.mem.fwd = s'.mem.fwd →
    s.inp.valLo.extractLsb' 0 w = s'.inp.valLo.extractLsb' 0 w →
    ∃ t t', exec enc s = .next t ∧ exec enc s' = .next t' ∧ t.out = t'.out

/-- The two decodes of a width report the same status, and beside `OK` they drive the decoded value of the
presented characters, the one zero-extended and the other sign-extended (rules R59, R133). -/
def ResultsAreExtensions (decu decs : Instr) {w : Nat} (decoded : List Block → BitVec w) : Prop :=
  ∀ s, ∃ tu ts, exec decu s = .next tu ∧ exec decs s = .next ts ∧ tu.out.status = ts.out.status ∧
    (tu.out.status = 0#3 →
      resultOf tu.out = (decoded ((tokenOperand s.inp).map (charValue s.mem))).setWidth 128 ∧
      resultOf ts.out = (decoded ((tokenOperand s.inp).map (charValue s.mem))).signExtend 128)

/-- A width's decodes and its validate report the same status on the same inputs. -/
def SameStatus (decu decs val : Instr) : Prop :=
  ∀ s, ∃ tu ts tv, exec decu s = .next tu ∧ exec decs s = .next ts ∧ exec val s = .next tv ∧
    tu.out.status = tv.out.status ∧ ts.out.status = tv.out.status

/-- Position `i` of a block list may be passed by the trimmer's scan, in the words of rule R100. -/
abbrev DroppableAt (b : List Block) (i : Nat) : Prop :=
  ∃ x ∈ b[i]?, ∃ y ∈ b[i + 1]?, if y = 63#6 then x = 63#6 else x = 0#6

/-! ## Second forms of the algorithms -/

/-- The supported widths as numbers (rule R5). -/
def supportedWidths : List Nat := [24, 32, 48, 64, 128]

/-- The number a block list writes in base 64, most significant block first. -/
def blockNat (vals : List Block) : Nat := vals.foldl (fun a b => 64 * a + b.toNat) 0

/-- `Z(vals)`: that number, less `64^L` when the first block is 63 (44_decoder.md section 1). -/
def zValue (vals : List Block) : Int :=
  (blockNat vals : Int) - if vals.head? = some 63#6 then (64 : Int) ^ vals.length else 0

/-- Droppability of every position that has a block after it (rule R100). -/
def droppables (b : List Block) : List Bool := List.zipWith droppable b b.tail

/-- The trimmer's two scan states (rules R17, R101). -/
inductive ScanState where
  /-- "still trimming" -/
  | trimming
  /-- "stopped" -/
  | stopped
deriving DecidableEq, Repr

/-- The trimmer's scan position and scan state (rule R17). -/
structure Scan where
  /-- The position reached. -/
  pos : Nat
  /-- Whether the scan still moves. -/
  state : ScanState
deriving DecidableEq, Repr

/-- One look at one position; "once stopped it does not resume" (rule R101). -/
def scanStep (sc : Scan) (drop : Bool) : Scan :=
  match sc.state, drop with
  | .trimming, true => { sc with pos := sc.pos + 1 }
  | .trimming, false => { sc with state := .stopped }
  | .stopped, _ => sc

/-- The forward scan with one lookahead over the whole block list (rule R101). -/
def forwardScan (b : List Block) : Scan :=
  (droppables b).foldl scanStep { pos := 0, state := .trimming }

/-! ## Histories and safe runs -/

/-- A host's history: it presents each of a list of inputs in turn and takes one step after each
(rules R11, R12). -/
def transactions : List Inputs → State → Host.Outcome State Fault Refusal
  | [], s => .next s
  | i :: rest, s =>
    match step (s.present i) with
    | .next t => transactions rest t
    | .fault r => .fault r
    | .refused r => .refused r

/-- A run is safe when every step of it completes: no fault and no refusal (rule R229). -/
def SafeRun (k : Nat) (s : State) : Prop := ∃ t, Sys2Proof.core.run k s = .next t

end Sys2Proof.Machine
end

