-- ==== Sys2Proof/Certificates/Slice0/Obligations.lean ====
section
/-! DEFINITION. The statements for the provers. -/

open Sys2Proof Sys2Proof.Machine

/-! ## The operation word and the step -/

/-- The byte decoder answers an operation exactly on that operation's encoded byte, with the bytes after it
(rules R50, R55, R56; the byte around the five bits is the model's choice, notes/assumptions/11.md). -/
def Obligations.DecodeAcceptsExactlyTheEncodedWords : Prop :=
  ∀ (bs : List Byte) (i : Instr) (rest : List Byte),
    decode bs = .ok (i, rest) ↔ bs = encodeBytes i ++ rest

/-- Rule R56: the reserved operation words are the eleven listed, those with `wsel` 6 or 7 and those with
`wsel` 0 in a class other than `VALID`; a transaction with one is an illegal request. -/
def Obligations.ReservedWordsAreTheElevenListed : Prop :=
  (∀ op : BitVec 5, op ∈ reservedOps ↔
    (op.extractLsb' 0 3 = 6#3 ∨ op.extractLsb' 0 3 = 7#3 ∨
      (op.extractLsb' 0 3 = 0#3 ∧ op.extractLsb' 3 2 ≠ 3#2))) ∧
  (∀ op : BitVec 5, op ∈ reservedOps → decodeOp op = .error (.reservedOp op)) ∧
  (∀ op : BitVec 5, op ∉ reservedOps → ∃ i, decodeOp op = .ok i) ∧
  ∀ s : State, s.presented = true → s.inp.op ∈ reservedOps →
    ∃ t, step s = .next t ∧ Over s t ∧ t.out.status = 7#3 ∧ NoData t.out

/-- A few operation words written out from the table of rule R55 decode to their operations. -/
def Obligations.WrittenWordsDecode : Prop :=
  decodeOp 0b00001#5 = .ok .enc24 ∧ decodeOp 0b00101#5 = .ok .enc128 ∧ decodeOp 0b01010#5 = .ok .dec32u ∧
  decodeOp 0b10011#5 = .ok .dec48s ∧ decodeOp 0b11000#5 = .ok .valid0 ∧ decodeOp 0b11100#5 = .ok .valid64

/-- A step with a presented transaction runs the operation the `op` port selects, and adds nothing around it. -/
def Obligations.StepRunsTheSelectedOperation : Prop :=
  ∀ (s : State) (i : Instr), s.presented = true → decodeOp s.inp.op = .ok i → step s = exec i s

/-- A presented table word of an operation is run by the very next step. Both functions of the table word are
the model's choice, not the spec's: `decodeTableWord` takes the five bits as one byte
(notes/assumptions/11.md), and `withFetchWord` stands for the host's presenting of an operation word
(notes/assumptions/5.md), which replaces an unanswered transaction (notes/assumptions/18.md). -/
def Obligations.FetchWordRunsItsOperation : Prop :=
  ∀ (s : State) (i : Instr),
    decodeTableWord 8 (encode i).toNat = some i ∧
    step (s.withFetchWord 8 (encode i).toNat) = exec i (s.withFetchWord 8 (encode i).toNat)

/-- Idling (70_reset_and_hazards.md section 1): the block does nothing until a host presents a transaction, and then does only that
transaction: at reset none is presented and any number of steps there changes nothing; without one a step
changes nothing; a step leaves none presented; and any number of further steps after a presented
transaction ends where its own step ends. The mark of a presented transaction, and that the last answer stays
on the ports of an idle block, are the model's, and so is it that presenting replaces an unanswered
transaction (notes/assumptions/5.md, 6.md, 18.md). -/
def Obligations.IdleUntilPresentedThenOneTransaction : Prop :=
  State.reset.presented = false ∧ (∀ k, Sys2Proof.core.run k State.reset = .next State.reset) ∧
  (∀ s : State, s.presented = false → step s = .next s) ∧
  (∀ s t : State, step s = .next t → t.presented = false) ∧
  ∀ (k : Nat) (s : State) (i : Inputs), Sys2Proof.core.run (k + 1) (s.present i) = step (s.present i)

/-- Rule R58: a transaction ends in `ILLEGAL_REQ` exactly when its word is reserved, or its class is not
`ENC` and its token length is above 23; then every data output is zero. -/
def Obligations.IllegalRequestsAreExactlyThese : Prop :=
  ∀ s : State, s.presented = true → ∃ t, step s = .next t ∧ Over s t ∧
    (t.out.status = 7#3 ↔
      (s.inp.op ∈ reservedOps ∨ (s.inp.op.extractLsb' 3 2 ≠ 0#2 ∧ 23 < s.inp.tokInLen.toNat))) ∧
    (t.out.status = 7#3 → NoData t.out)

/-- Every step completes, changes neither an input port nor a ROM, and leaves no transaction presented. -/
def Obligations.EveryTransactionCompletes : Prop :=
  ∀ s : State, ∃ t, step s = .next t ∧ Over s t

/-- The answer is a function of the inputs and the ROMs: what the outputs held before does not matter. -/
def Obligations.AnswersDependOnInputsAndRomsOnly : Prop :=
  ∀ s s' : State, s.presented = true → s'.presented = true → s.inp = s'.inp → s.mem = s'.mem →
    ∃ t t', step s = .next t ∧ step s' = .next t' ∧ t.out = t'.out

/-- A transaction leaves the next one exactly as it would be alone. (Where the first state already holds an
unanswered transaction, presenting replaces it: the model's choice, notes/assumptions/18.md.) -/
def Obligations.TransactionsAreIndependent : Prop :=
  ∀ (s : State) (a b : Inputs), ∃ t u,
    step (s.present a) = .next t ∧ step (t.present b) = .next u ∧ step (s.present b) = .next u

/-- A transaction ends in the state that it ends in alone, whatever list of transactions came before it, the
same one any number of times included; further steps with nothing presented change nothing; no run stops.That an
idle block keeps its last answer, and that presenting replaces a transaction the first state holds unanswered,
are the model's choices (notes/assumptions/6.md, 18.md). -/
def Obligations.RepeatedTransactionsAnswerAlike : Prop :=
  (∀ (before : List Inputs) (i : Inputs) (s : State), transactions (before ++ [i]) s = step (s.present i)) ∧
  (∀ (k : Nat) (i : Inputs) (s : State), transactions (List.replicate (k + 1) i) s = step (s.present i)) ∧
  ∀ (k : Nat) (s : State), Sys2Proof.core.run (k + 1) s = step s ∧ SafeRun (k + 1) s

/-! ## Inputs an operation ignores -/

/-- Encodes read nothing but their operand bits and `FWD`. -/
def Obligations.EncodersIgnoreWhatTheyDoNotRead : Prop :=
  EncodeReadsOnlyLowBits .enc24 24 ∧ EncodeReadsOnlyLowBits .enc32 32 ∧
  EncodeReadsOnlyLowBits .enc48 48 ∧ EncodeReadsOnlyLowBits .enc64 64 ∧
  ∀ s s' : State, s.mem.fwd = s'.mem.fwd → s.inp.valHi = s'.inp.valHi → s.inp.valLo = s'.inp.valLo →
    ∃ t t', exec .enc128 s = .next t ∧ exec .enc128 s' = .next t' ∧ t.out = t'.out

/-- Decodes and validates read nothing but the token length, the lanes below it, and `INV`. -/
def Obligations.TokenOperationsIgnoreWhatTheyDoNotRead : Prop :=
  ∀ i : Instr, i.opClass ≠ .enc → ∀ s s' : State, s.mem.inv = s'.mem.inv →
    s.inp.tokInLen = s'.inp.tokInLen →
    (∀ j < s.inp.tokInLen.toNat, laneIn s.inp j = laneIn s'.inp j) →
    ∃ t t', exec i s = .next t ∧ exec i s' = .next t' ∧ t.out = t'.out

/-! ## The ROMs, reset and the output ports -/

/-- At reset the forward ROM meets rule R80 and the inverse ROM is its inverse. -/
def Obligations.ResetRomsAreWellFormed : Prop := State.reset.mem.wf

/-- From every state whose ROMs are well formed, a step gives a state whose ROMs are well formed. -/
def Obligations.EveryStepKeepsTheRomsWellFormed : Prop :=
  ∀ s t : State, s.mem.wf → step s = .next t → t.mem.wf

/-- Every answer obeys the rules of the output ports, and a step with nothing presented keeps them (that the
last answer stays on the ports is the model's choice, notes/assumptions/6.md): a listed status, no data beside an error, a token of
at most 22 symbols with bit 7 clear followed by zero lanes, never a token and a result together; and with
well-formed ROMs every character is a code from 32 to 127. -/
def Obligations.EveryAnswerMeetsThePortRules : Prop :=
  ∀ s t : State, s.presented = true ∨ OutputsOk s.mem s.out → step s = .next t → OutputsOk t.mem t.out ∧
    (s.mem.wf → ∀ j < t.out.tokOutLen.toNat, 32 ≤ (laneOut t.out j).toNat ∧ (laneOut t.out j).toNat ≤ 127)

/-- Rule R220: after reset the ROMs hold `ALPHA` and its inverse, and the first transaction behaves as it
does after any other history. -/
def Obligations.FirstTransactionAfterResetIsLikeAnyOther : Prop :=
  (∀ v : Block, readFwd State.reset.mem v = Config.alpha.table[v.toNat]'v.isLt) ∧
  (∀ v : Block, readInv State.reset.mem (readFwd State.reset.mem v) = 0#1 ++ v) ∧
  (∀ c : Code, (∀ v : Block, readFwd State.reset.mem v ≠ c) → readInv State.reset.mem c = 1#1 ++ 0#6) ∧
  ∀ (inp : Inputs) (s : State), s.mem = State.reset.mem → s.presented = true → s.inp = inp →
    ∃ t u, step (State.reset.present inp) = .next t ∧ step s = .next u ∧
      t.out = u.out ∧ t.mem = State.reset.mem

/-- The two ROMs are mutually inverse, exactly half of the 128 codes are symbols, and no code below 32 is. -/
def Obligations.InverseRomUndoesForwardRom : Prop :=
  ∀ m : Memory, m.wf →
    (∀ v : Block, readInv m (readFwd m v) = 0#1 ++ v) ∧
    (∀ c : Code, invFlag (readInv m c) = false → readFwd m (invVal (readInv m c)) = c) ∧
    ((List.range 128).filter fun c => !invFlag (readInv m (BitVec.ofNat 7 c))).length = 64 ∧
    ((List.range 128).filter fun c => invFlag (readInv m (BitVec.ofNat 7 c))).length = 64 ∧
    ∀ c : Code, c.toNat < 32 → invFlag (readInv m c) = true

/-- Rule R82: `valueOf` answers the value of a symbol and nothing for any other code, exactly 64 codes have a
value, and the rule's example under `T0`. -/
def Obligations.ValueOfInvertsSymbolOf : Prop :=
  (∀ m : Memory, m.wf →
    (∀ v : Block, valueOf m (symbolOf m v) = some v) ∧
    (∀ (c : Code) (v : Block), valueOf m c = some v ↔ symbolOf m v = c) ∧
    (∀ c : Code, valueOf m c = none ↔ ∀ v : Block, symbolOf m v ≠ c) ∧
    ((List.range 128).filter fun c => (valueOf m (BitVec.ofNat 7 c)).isSome).length = 64) ∧
  valueOf (Memory.ofAlpha Config.t0) 0x6F#7 = some 63#6 ∧ valueOf (Memory.ofAlpha Config.t0) 0x20#7 = none

/-- Both tables can be read out through the operations. -/
def Obligations.AlphabetReadsOutThroughOperations : Prop :=
  ∀ s : State, s.mem.wf →
    (∀ v : Block, v ≠ 63#6 → s.inp.valLo.extractLsb' 0 24 = v.setWidth 24 → AnswersBlocks .enc24 s [v]) ∧
    (s.inp.valLo.extractLsb' 0 24 = 0xFFFFFF#24 → AnswersBlocks .enc24 s [63#6]) ∧
    ∀ c : Code, s.inp.tokInLen = 1#5 → laneIn s.inp 0 = 0#1 ++ c →
      (valueOf s.mem c = none → AnswersStatus .valid0 s .wrongChar) ∧
      ∀ v : Block, valueOf s.mem c = some v → AnswersStatus .valid0 s .ok ∧
        AnswersResult .dec24u s (if v = 63#6 then 0xFFFFFF#128 else v.setWidth 128)

/-! ## The splitter -/

/-- The blocks of each width, bit by bit. -/
def Obligations.SplitterBlocksWidthByWidth : Prop :=
  (∀ v : BitVec 24, split v = [v.extractLsb' 18 6, v.extractLsb' 12 6, v.extractLsb' 6 6, v.extractLsb' 0 6]) ∧
  (∀ v : BitVec 32, split v =
    [BitVec.fill 4 v.msb ++ v.extractLsb' 30 2, v.extractLsb' 24 6, v.extractLsb' 18 6,
      v.extractLsb' 12 6, v.extractLsb' 6 6, v.extractLsb' 0 6]) ∧
  (∀ v : BitVec 48, split v = (List.range 8).map fun i => v.extractLsb' (42 - 6 * i) 6) ∧
  (∀ v : BitVec 64, split v =
    (BitVec.fill 2 v.msb ++ v.extractLsb' 60 4) :: (List.range 10).map fun k => v.extractLsb' (54 - 6 * k) 6) ∧
  ∀ v : BitVec 128, split v =
    (BitVec.fill 4 v.msb ++ v.extractLsb' 126 2) :: (List.range 21).map fun k => v.extractLsb' (120 - 6 * k) 6

/-- The 128-bit splitter on two words: block 11 straddles the word boundary. -/
def Obligations.SplitterStraddlesTheWordBoundary : Prop :=
  ∀ h l : Word64, split (h ++ l : Word128) =
    ((BitVec.fill 4 h.msb ++ h.extractLsb' 62 2) :: (List.range 10).map fun k => h.extractLsb' (56 - 6 * k) 6) ++
    ((h.extractLsb' 0 2 ++ l.extractLsb' 60 4) :: (List.range 10).map fun k => l.extractLsb' (54 - 6 * k) 6)

/-- The blocks of a value, written one after another, are the sign-extended value, at every width. -/
def Obligations.BlocksReassembleTheValue : Prop :=
  ∀ (w : Nat) (v : BitVec w),
    (split v).length = (w + 5) / 6 ∧ blockNat (split v) = (v.signExtend (6 * ((w + 5) / 6))).toNat

/-! ## The trimmer -/

/-- Rule R100: the trim index is the first position that is not droppable, or the last position; the blocks
from it on survive; and the rule's example. -/
def Obligations.TrimIndexIsTheFirstUndroppable : Prop :=
  (∀ b : List Block, b ≠ [] →
    trim b ≤ b.length - 1 ∧ (∀ i < trim b, DroppableAt b i) ∧
    (trim b < b.length - 1 → ¬ DroppableAt b (trim b)) ∧ kept b = b.drop (trim b)) ∧
  trim [0#6, 0#6, 63#6, 63#6] = 1

/-- The trim index is where the forward scan with one lookahead stops, and the number of leading droppable
positions. -/
def Obligations.TrimIsTheForwardScan : Prop :=
  ∀ b : List Block,
    trim b = (forwardScan b).pos ∧ trim b = ((droppables b).takeWhile id).length ∧
    ((forwardScan b).state = .stopped ↔ trim b + 1 < b.length)

/-- The dropped prefix of a split value is all 0 or all 63, and the first kept block tells which. -/
def Obligations.DroppedPrefixTellsTheSign : Prop :=
  ∀ w ∈ supportedWidths, ∀ v : BitVec w,
    trim (split v) = 0 ∨
    (1 ≤ trim (split v) ∧ (∀ x ∈ (split v).take (trim (split v)), x = 0#6) ∧
      (kept (split v)).head? ≠ some 63#6 ∧ v.msb = false) ∨
    (1 ≤ trim (split v) ∧ (∀ x ∈ (split v).take (trim (split v)), x = 63#6) ∧
      (kept (split v)).head? = some 63#6 ∧ v.msb = true)

/-- The canonical length in closed form. -/
def Obligations.CanonicalLengthClosedForm : Prop :=
  ∀ w ∈ supportedWidths, ∀ v : BitVec w,
    1 ≤ (encodeBlocks v).length ∧ (encodeBlocks v).length ≤ (w + 5) / 6 ∧
    (0 ≤ v.toInt →
      (∀ l, 1 ≤ l → l < (encodeBlocks v).length → 63 * (64 : Int) ^ (l - 1) - 1 < v.toInt) ∧
      ((encodeBlocks v).length < (w + 5) / 6 →
        v.toInt ≤ 63 * (64 : Int) ^ ((encodeBlocks v).length - 1) - 1)) ∧
    (v.toInt < 0 →
      (∀ l, 1 ≤ l → l < (encodeBlocks v).length → v.toInt < -((64 : Int) ^ (l - 1))) ∧
      ((encodeBlocks v).length < (w + 5) / 6 →
        -((64 : Int) ^ ((encodeBlocks v).length - 1)) ≤ v.toInt))

/-- The surviving suffix decodes to the value, as the full block list does, and no shorter suffix does. -/
def Obligations.TrimmingKeepsTheValueAndIsIrreducible : Prop :=
  ∀ w ∈ supportedWidths, ∀ v : BitVec w,
    decodeValue w (split v) = v ∧ decodeValue w (kept (split v)) = v ∧
    ∀ k, trim (split v) < k → k < (split v).length → decodeValue w ((split v).drop k) ≠ v

/-- No block list shorter than the canonical one decodes to the value. -/
def Obligations.CanonicalTokenIsShortest : Prop :=
  ∀ w ∈ supportedWidths, ∀ (v : BitVec w) (vals : List Block), vals ≠ [] → decodeValue w vals = v →
    (encodeBlocks v).length ≤ vals.length

/-- A block list of the canonical length that decodes to the value, and at full length passes the leading
test, is the canonical one. -/
def Obligations.CanonicalTokenIsUnique : Prop :=
  ∀ w ∈ supportedWidths, ∀ (v : BitVec w) (vals : List Block),
    vals.length = (encodeBlocks v).length → decodeValue w vals = v →
    (vals.length = (w + 5) / 6 → w % 6 ≠ 0 → ∃ f, vals.head? = some f ∧ leadingOk (w % 6) f = true) →
    vals = encodeBlocks v

/-! ## The encoders -/

/-- Rule R113: `ENC24`, its operand's blocks and its corner cases. -/
def Obligations.EncTwentyFourAnswersItsTrimmedBlocks : Prop :=
  decodeOp 0b00001#5 = .ok .enc24 ∧
  (∀ s : State, AnswersBlocks .enc24 s (kept
    [s.inp.valLo.extractLsb' 18 6, s.inp.valLo.extractLsb' 12 6, s.inp.valLo.extractLsb' 6 6,
      s.inp.valLo.extractLsb' 0 6])) ∧
  EncodesListed .enc24 (fun inp => inp.valLo.extractLsb' 0 24)
    [(0x000000#24, [0#6]), (0xFFFFFF#24, [63#6]), (0x800000#24, [32#6, 0#6, 0#6, 0#6]),
      (0x7FFFFF#24, [31#6, 63#6, 63#6, 63#6]), (0x00003F#24, [0#6, 63#6]),
      (0x000FFF#24, [0#6, 63#6, 63#6]), (0xFFFFBF#24, [63#6, 62#6, 63#6])] ∧
  EncodesUnderT0 .enc24 (fun inp => inp.valLo.extractLsb' 0 24) 0xFFFFBF#24
    [0x6F#8, 0x6E#8, 0x6F#8]

/-- Rule R114: `ENC32`, its operand's blocks and its corner cases. -/
def Obligations.EncThirtyTwoAnswersItsTrimmedBlocks : Prop :=
  decodeOp 0b00010#5 = .ok .enc32 ∧
  (∀ s : State, AnswersBlocks .enc32 s (kept
    [BitVec.fill 4 (s.inp.valLo.getLsbD 31) ++ s.inp.valLo.extractLsb' 30 2, s.inp.valLo.extractLsb' 24 6,
      s.inp.valLo.extractLsb' 18 6, s.inp.valLo.extractLsb' 12 6, s.inp.valLo.extractLsb' 6 6,
      s.inp.valLo.extractLsb' 0 6])) ∧
  EncodesListed .enc32 (fun inp => inp.valLo.extractLsb' 0 32)
    [(0x00000000#32, [0#6]), (0xFFFFFFFF#32, [63#6]),
      (0x80000000#32, [62#6, 0#6, 0#6, 0#6, 0#6, 0#6]), (0x7FFFFFFF#32, [1#6, 63#6, 63#6, 63#6, 63#6, 63#6]),
      (0xC0000000#32, [63#6, 0#6, 0#6, 0#6, 0#6, 0#6]), (0x3FFFFFFF#32, [0#6, 63#6, 63#6, 63#6, 63#6, 63#6]),
      (0xC0A80001#32, [63#6, 0#6, 42#6, 0#6, 0#6, 1#6])] ∧
  EncodesUnderT0 .enc32 (fun inp => inp.valLo.extractLsb' 0 32) 0xC0A80001#32
    [0x6F#8, 0x30#8, 0x5A#8, 0x30#8, 0x30#8, 0x31#8]

/-- Rule R115: `ENC48`, its operand's blocks and its corner cases. -/
def Obligations.EncFortyEightAnswersItsTrimmedBlocks : Prop :=
  decodeOp 0b00011#5 = .ok .enc48 ∧
  (∀ s : State, AnswersBlocks .enc48 s (kept
    ((List.range 8).map fun i => s.inp.valLo.extractLsb' (42 - 6 * i) 6))) ∧
  EncodesListed .enc48 (fun inp => inp.valLo.extractLsb' 0 48)
    [(0x000000000000#48, [0#6]), (0xFFFFFFFFFFFF#48, [63#6]),
      (0x800000000000#48, 32#6 :: List.replicate 7 0#6), (0x7FFFFFFFFFFF#48, 31#6 :: List.replicate 7 63#6),
      (0x001A2B3C4D5E#48, [1#6, 40#6, 43#6, 15#6, 4#6, 53#6, 30#6])] ∧
  EncodesUnderT0 .enc48 (fun inp => inp.valLo.extractLsb' 0 48) 0x001A2B3C4D5E#48
    [0x31#8, 0x58#8, 0x5B#8, 0x3F#8, 0x34#8, 0x65#8, 0x4E#8]

/-- Rule R116: `ENC64`, its operand's blocks and its corner cases. -/
def Obligations.EncSixtyFourAnswersItsTrimmedBlocks : Prop :=
  decodeOp 0b00100#5 = .ok .enc64 ∧
  (∀ s : State, AnswersBlocks .enc64 s (kept
    ((BitVec.fill 2 (s.inp.valLo.getLsbD 63) ++ s.inp.valLo.extractLsb' 60 4) ::
      (List.range 10).map fun k => s.inp.valLo.extractLsb' (54 - 6 * k) 6))) ∧
  EncodesListed .enc64 (fun inp => inp.valLo)
    [(0#64, [0#6]), (0xFFFFFFFFFFFFFFFF#64, [63#6]),
      (0x8000000000000000#64, 56#6 :: List.replicate 10 0#6), (0x7FFFFFFFFFFFFFFF#64, 7#6 :: List.replicate 10 63#6),
      (0xC000000000000000#64, 60#6 :: List.replicate 10 0#6),
      (0x0123456789ABCDEF#64, [4#6, 35#6, 17#6, 22#6, 30#6, 9#6, 42#6, 60#6, 55#6, 47#6])] ∧
  EncodesUnderT0 .enc64 (fun inp => inp.valLo) 0x0123456789ABCDEF#64
    [0x34#8, 0x53#8, 0x41#8, 0x46#8, 0x4E#8, 0x39#8, 0x5A#8, 0x6C#8, 0x67#8, 0x5F#8]

/-- Rule R117: `ENC128`, the blocks of its two operand words and its corner cases. -/
def Obligations.EncOneTwentyEightAnswersItsTrimmedBlocks : Prop :=
  decodeOp 0b00101#5 = .ok .enc128 ∧
  (∀ s : State, AnswersBlocks .enc128 s (kept
    (((BitVec.fill 4 (s.inp.valHi.getLsbD 63) ++ s.inp.valHi.extractLsb' 62 2) ::
        (List.range 10).map fun k => s.inp.valHi.extractLsb' (56 - 6 * k) 6) ++
      ((s.inp.valHi.extractLsb' 0 2 ++ s.inp.valLo.extractLsb' 60 4) ::
        (List.range 10).map fun k => s.inp.valLo.extractLsb' (54 - 6 * k) 6)))) ∧
  EncodesListed .enc128 (fun inp => (inp.valHi ++ inp.valLo : Word128))
    [(0#128, [0#6]), (0xFFFFFFFFFFFFFFFFFFFFFFFFFFFFFFFF#128, [63#6]),
      (0x80000000000000000000000000000000#128, 62#6 :: List.replicate 21 0#6),
      (0x7FFFFFFFFFFFFFFFFFFFFFFFFFFFFFFF#128, 1#6 :: List.replicate 21 63#6),
      (0x0000000000000000FFFFFFFFFFFFFFFF#128, 15#6 :: List.replicate 10 63#6),
      (0xFFFFFFFFFFFFFFFF0000000000000000#128, 63#6 :: 48#6 :: List.replicate 10 0#6),
      (0x00000000000000010000000000000000#128, 16#6 :: List.replicate 10 0#6)] ∧
  EncodesUnderT0 .enc128 (fun inp => (inp.valHi ++ inp.valLo : Word128)) 0x00000000000000010000000000000000#128
    [0x40#8, 0x30#8, 0x30#8, 0x30#8, 0x30#8, 0x30#8, 0x30#8, 0x30#8, 0x30#8, 0x30#8, 0x30#8]

/-! ## The decoders -/

/-- Rules R135 and R140: `DEC24U` and `DEC24S` on every string, with their corner cases. -/
def Obligations.DecTwentyFourDecodesItsTokens : Prop :=
  decodeOp 0b01001#5 = .ok .dec24u ∧ decodeOp 0b10001#5 = .ok .dec24s ∧
  DecodesTokens .dec24u .dec24s 24 4 anyLead ∧
  DecodesListed .dec24u .dec24s
    [([63#6], 0xFFFFFF#24), ([0#6], 0#24), ([32#6, 0#6, 0#6, 0#6], 0x800000#24),
      ([31#6, 63#6, 63#6, 63#6], 0x7FFFFF#24), ([32#6], 32#24), ([63#6, 62#6, 63#6], 0xFFFFBF#24)] ∧
  DecodesUnderT0 .dec24u [0x6F#8, 0x6E#8, 0x6F#8] 0xFFFFBF#128 ∧
  DecodesUnderT0 .dec24s [0x6F#8, 0x6E#8, 0x6F#8] 0xFFFFFFFFFFFFFFFFFFFFFFFFFFFFFFBF#128

/-- Rules R136 and R141: `DEC32U` and `DEC32S` on every string, with their corner cases. -/
def Obligations.DecThirtyTwoDecodesItsTokens : Prop :=
  decodeOp 0b01010#5 = .ok .dec32u ∧ decodeOp 0b10010#5 = .ok .dec32s ∧
  DecodesTokens .dec32u .dec32s 32 6 rest2Leads ∧
  DecodesListed .dec32u .dec32s
    [([62#6, 0#6, 0#6, 0#6, 0#6, 0#6], 0x80000000#32), ([63#6], 0xFFFFFFFF#32),
      ([1#6, 63#6, 63#6, 63#6, 63#6, 63#6], 0x7FFFFFFF#32), ([63#6, 0#6, 42#6, 0#6, 0#6, 1#6], 0xC0A80001#32)] ∧
  DecodesUnderT0 .dec32u [0x6F#8, 0x30#8, 0x5A#8, 0x30#8, 0x30#8, 0x31#8] 0xC0A80001#128 ∧
  DecodesUnderT0 .dec32s [0x6F#8, 0x30#8, 0x5A#8, 0x30#8, 0x30#8, 0x31#8] 0xFFFFFFFFFFFFFFFFFFFFFFFFC0A80001#128

/-- Rules R137 and R142: `DEC48U` and `DEC48S` on every string, with their corner cases. -/
def Obligations.DecFortyEightDecodesItsTokens : Prop :=
  decodeOp 0b01011#5 = .ok .dec48u ∧ decodeOp 0b10011#5 = .ok .dec48s ∧
  DecodesTokens .dec48u .dec48s 48 8 anyLead ∧
  DecodesListed .dec48u .dec48s
    [([63#6], 0xFFFFFFFFFFFF#48), ([0#6], 0#48), (32#6 :: List.replicate 7 0#6, 0x800000000000#48),
      ([1#6, 40#6, 43#6, 15#6, 4#6, 53#6, 30#6], 0x001A2B3C4D5E#48), ([63#6, 62#6], 0xFFFFFFFFFFFE#48)] ∧
  DecodesUnderT0 .dec48u [0x31#8, 0x58#8, 0x5B#8, 0x3F#8, 0x34#8, 0x65#8, 0x4E#8] 0x001A2B3C4D5E#128 ∧
  DecodesUnderT0 .dec48s [0x6F#8, 0x6E#8] 0xFFFFFFFFFFFFFFFFFFFFFFFFFFFFFFFE#128

/-- Rules R138 and R143: `DEC64U` and `DEC64S` on every string, with their corner cases. -/
def Obligations.DecSixtyFourDecodesItsTokens : Prop :=
  decodeOp 0b01100#5 = .ok .dec64u ∧ decodeOp 0b10100#5 = .ok .dec64s ∧
  DecodesTokens .dec64u .dec64s 64 11 rest4Leads ∧
  DecodesListed .dec64u .dec64s
    [(56#6 :: List.replicate 10 0#6, 0x8000000000000000#64), ([63#6], 0xFFFFFFFFFFFFFFFF#64),
      ([4#6, 35#6, 17#6, 22#6, 30#6, 9#6, 42#6, 60#6, 55#6, 47#6], 0x0123456789ABCDEF#64),
      ([63#6, 59#6, 28#6, 46#6, 41#6, 33#6, 54#6, 21#6, 3#6, 8#6, 16#6], 0xFEDCBA9876543210#64)] ∧
  DecodesUnderT0 .dec64u [0x34#8, 0x53#8, 0x41#8, 0x46#8, 0x4E#8, 0x39#8, 0x5A#8, 0x6C#8, 0x67#8, 0x5F#8] 0x0123456789ABCDEF#128 ∧
  DecodesUnderT0 .dec64s [0x6F#8, 0x6B#8, 0x4C#8, 0x5E#8, 0x59#8, 0x51#8, 0x66#8, 0x45#8, 0x33#8, 0x38#8, 0x40#8] 0xFFFFFFFFFFFFFFFFFEDCBA9876543210#128

/-- Rules R139 and R144: `DEC128U` and `DEC128S` on every string: the pair accumulator, the same bits from
both, with their corner cases. -/
def Obligations.DecOneTwentyEightDecodesItsTokens : Prop :=
  decodeOp 0b01101#5 = .ok .dec128u ∧ decodeOp 0b10101#5 = .ok .dec128s ∧
  (∀ s vals, SymbolToken s vals → FitsWidth 22 rest2Leads vals →
    ∃ high low : Nat → Word64, PairRun vals high low ∧
      AnswersResult .dec128u s (high vals.length ++ low vals.length) ∧
      AnswersResult .dec128s s (high vals.length ++ low vals.length)) ∧
  RefusesUnfitTokens .dec128u 22 rest2Leads ∧ RefusesUnfitTokens .dec128s 22 rest2Leads ∧
  (∀ s, ∃ tu ts, exec .dec128u s = .next tu ∧ exec .dec128s s = .next ts ∧ tu.out = ts.out) ∧
  DecodesListed .dec128u .dec128s
    [([63#6], 0xFFFFFFFFFFFFFFFFFFFFFFFFFFFFFFFF#128), ([0#6], 0#128),
      (16#6 :: List.replicate 10 0#6, 0x00000000000000010000000000000000#128),
      (63#6 :: 48#6 :: List.replicate 10 0#6, 0xFFFFFFFFFFFFFFFF0000000000000000#128)] ∧
  DecodesUnderT0 .dec128u [0x40#8, 0x30#8, 0x30#8, 0x30#8, 0x30#8, 0x30#8, 0x30#8, 0x30#8, 0x30#8, 0x30#8, 0x30#8] 0x00000000000000010000000000000000#128 ∧
  DecodesUnderT0 .dec128s [0x6F#8, 0x60#8, 0x30#8, 0x30#8, 0x30#8, 0x30#8, 0x30#8, 0x30#8, 0x30#8, 0x30#8, 0x30#8, 0x30#8] 0xFFFFFFFFFFFFFFFF0000000000000000#128

/-- What the accumulator computes, as one integer formula, and its range. -/
def Obligations.DecodeValueIsTheIntegerFormula : Prop :=
  ∀ vals : List Block, vals ≠ [] →
    -((64 : Int) ^ (vals.length - 1)) ≤ zValue vals ∧ zValue vals ≤ 63 * (64 : Int) ^ (vals.length - 1) - 1 ∧
    ∀ w ∈ supportedWidths,
      ((decodeValue w vals).toNat : Int) = zValue vals % (2 : Int) ^ w ∧
      (vals.length < (w + 5) / 6 → (decodeValue w vals).toInt = zValue vals) ∧
      (vals.length = (w + 5) / 6 → (decodeValue w vals).toNat = blockNat vals % 2 ^ w)

/-- Rule R132: one step of the pair accumulator, and that the pair is the 128-bit accumulator. -/
def Obligations.PairAccumulatorIsThe128BitShift : Prop :=
  (∀ (p : Pair) (v : Block),
    (pairStep p v).high = (p.high <<< 6) ||| (p.low.extractLsb' 58 6).setWidth 64 ∧
    (pairStep p v).low = (p.low <<< 6) ||| v.setWidth 64 ∧
    (pairStep p v).high ++ (pairStep p v).low = ((p.high ++ p.low) <<< 6) ||| v.setWidth 128) ∧
  ∀ vals : List Block, decodeValue128 vals = decodeValue 128 vals

/-- Rule R59: the unsigned result is the zero extension and the signed result the sign extension of the
decoded value of the presented characters, the accumulator's last value; at width 128 the same bits, at width 64 the same low word. -/
def Obligations.ResultsExtendOneDecodedValue : Prop :=
  ResultsAreExtensions .dec24u .dec24s (decodeValue 24) ∧ ResultsAreExtensions .dec32u .dec32s (decodeValue 32) ∧
  ResultsAreExtensions .dec48u .dec48s (decodeValue 48) ∧ ResultsAreExtensions .dec64u .dec64s (decodeValue 64) ∧
  ResultsAreExtensions .dec128u .dec128s decodeValue128 ∧
  (∀ s, ∃ tu ts, exec .dec128u s = .next tu ∧ exec .dec128s s = .next ts ∧ tu.out = ts.out) ∧
  ∀ s, ∃ tu ts, exec .dec64u s = .next tu ∧ exec .dec64s s = .next ts ∧
    tu.out.resLo = ts.out.resLo ∧ (tu.out.resHi ≠ ts.out.resHi ↔
      tu.out.status = 0#3 ∧ tu.out.resLo.getLsbD 63 = true)

/-! ## The validator -/

/-- Rule R166: `VALID0` on every string. -/
def Obligations.ValidZeroClassifiesEveryString : Prop :=
  decodeOp 0b11000#5 = .ok .valid0 ∧
  (∀ s vals, SymbolToken s vals → 1 ≤ vals.length → AnswersStatus .valid0 s .ok) ∧
  RefusesBadStrings .valid0 ∧
  (∀ s, ∃ t, exec .valid0 s = .next t ∧ t.out.status ≠ 4#3) ∧
  ValidatesUnderT0 .valid0
    [([0x80#8], .highBit), ([0x6F#8, 0x80#8, 0x20#8], .highBit), ([0x20#8], .wrongChar), ([0x2F#8], .wrongChar),
      ([0x70#8], .wrongChar), ([0x6F#8, 0x30#8, 0x5A#8], .ok)]

/-- Rules R167 and R169: `VALID24` and `VALID48` on every string. -/
def Obligations.ValidMultiplesOfSixClassifyEveryString : Prop :=
  decodeOp 0b11001#5 = .ok .valid24 ∧ decodeOp 0b11011#5 = .ok .valid48 ∧
  ValidatesTokens .valid24 4 anyLead ∧ ValidatesTokens .valid48 8 anyLead

/-- Rules R168 and R171: `VALID32` and `VALID128` on every string. -/
def Obligations.ValidWithTwoLeadingBitsClassifyEveryString : Prop :=
  decodeOp 0b11010#5 = .ok .valid32 ∧ decodeOp 0b11101#5 = .ok .valid128 ∧
  ValidatesTokens .valid32 6 rest2Leads ∧ ValidatesTokens .valid128 22 rest2Leads

/-- Rule R170: `VALID64` on every string. -/
def Obligations.ValidSixtyFourClassifiesEveryString : Prop :=
  decodeOp 0b11100#5 = .ok .valid64 ∧
  ValidatesTokens .valid64 11 rest4Leads

/-- Rules R161, R162 and R163: the character classes of any string at any `expectedBits`. -/
def Obligations.CharacterTestsComeFirst : Prop :=
  ∀ (m : Memory) (e : Nat), valid m [] e = .empty ∧
    ∀ tok : List Byte, tok ≠ [] →
      ((∃ b ∈ tok, b.getLsbD 7 = true) → valid m tok e = .highBit) ∧
      ((∀ b ∈ tok, b.getLsbD 7 = false) → (∃ b ∈ tok, valueOf m (b.extractLsb' 0 7) = none) →
        valid m tok e = .wrongChar)

/-- Rule R165: when the leading-character test applies, which values it accepts, and that these are the
first blocks the splitter can make. -/
def Obligations.LeadingTestAcceptsSplitterHeads : Prop :=
  (∀ (m : Memory) (tok : List Byte) (e : Nat), e ≠ 0 → tok ≠ [] →
    (∀ b ∈ tok, b.getLsbD 7 = false ∧ invFlag (readInv m (b.extractLsb' 0 7)) = false) →
    (valid m tok e = .tooLong ↔ (e + 5) / 6 < tok.length ∨
      (tok.length = (e + 5) / 6 ∧ e % 6 ≠ 0 ∧
        ∃ b, tok.head? = some b ∧
          leadingOk (e % 6) (invVal (readInv m (b.extractLsb' 0 7))) = false))) ∧
  (∀ r : Nat, 1 ≤ r → r ≤ 5 → ∀ f : Block, leadingOk r f = true ↔
    (f.toNat ≤ 2 ^ (r - 1) - 1 ∨ 64 - 2 ^ (r - 1) ≤ f.toNat)) ∧
  (∀ f : Block, leadingOk 2 f = true ↔ f ∈ rest2Leads) ∧
  (∀ f : Block, leadingOk 4 f = true ↔ f ∈ rest4Leads) ∧
  (∀ f : Block, f ∈ rest2Leads ↔ ∃ v : BitVec 32, (split v).head? = some f) ∧
  (∀ f : Block, f ∈ rest2Leads ↔ ∃ v : BitVec 128, (split v).head? = some f) ∧
  ∀ f : Block, f ∈ rest4Leads ↔ ∃ v : BitVec 64, (split v).head? = some f

/-! ## Across the components -/

/-- A width's decodes report exactly what its validate reports. -/
def Obligations.DecodersReportWhatTheValidatorReports : Prop :=
  SameStatus .dec24u .dec24s .valid24 ∧ SameStatus .dec32u .dec32s .valid32 ∧
  SameStatus .dec48u .dec48s .valid48 ∧ SameStatus .dec64u .dec64s .valid64 ∧
  SameStatus .dec128u .dec128s .valid128

/-- The token of every encode is accepted at its width and with no width. -/
def Obligations.EncodedTokensAreAccepted : Prop :=
  EncodesAcceptedTokens .enc24 .valid24 ∧ EncodesAcceptedTokens .enc32 .valid32 ∧
  EncodesAcceptedTokens .enc48 .valid48 ∧ EncodesAcceptedTokens .enc64 .valid64 ∧
  EncodesAcceptedTokens .enc128 .valid128

/-- Rule R145: the round trip at every supported width, signed and unsigned. -/
def Obligations.EncodeThenDecodeReturnsTheValue : Prop :=
  RoundTrips .enc24 .dec24u .dec24s (fun inp => inp.valLo.extractLsb' 0 24) ∧
  RoundTrips .enc32 .dec32u .dec32s (fun inp => inp.valLo.extractLsb' 0 32) ∧
  RoundTrips .enc48 .dec48u .dec48s (fun inp => inp.valLo.extractLsb' 0 48) ∧
  RoundTrips .enc64 .dec64u .dec64s (fun inp => inp.valLo) ∧
  RoundTrips .enc128 .dec128u .dec128s (fun inp => (inp.valHi ++ inp.valLo : Word128))

/-- Rule R197: which operation can report which status, each by its number in the table of rule R57: `OK` 0,
`EMPTY` 1, `HIGH_BIT` 2, `WRONG_CHAR` 3, `TOO_LONG` 4, `ILLEGAL_REQ` 7. -/
def Obligations.StatusesReportedPerOperation : Prop :=
  (∀ i : Instr, i.opClass = .enc → ∀ s, ∃ t, exec i s = .next t ∧ t.out.status = 0#3) ∧
  (∀ i : Instr, i.opClass ≠ .enc → ∀ c ∈ [0#3, 1#3, 2#3, 3#3, 4#3, 7#3], (i = .valid0 → c ≠ 4#3) →
    ∃ s t, exec i s = .next t ∧ t.out.status = c) ∧
  (∀ s, ∃ t, exec .valid0 s = .next t ∧ t.out.status ≠ 4#3) ∧
  (∀ i : Instr, i.opClass ≠ .enc → ∀ s t, exec i s = .next t →
    (t.out.status = 7#3 ↔ 23 < s.inp.tokInLen.toNat) ∧
    (t.out.status = 1#3 ↔ s.inp.tokInLen.toNat = 0) ∧
    (t.out.status = 2#3 ↔ 1 ≤ s.inp.tokInLen.toNat ∧ s.inp.tokInLen.toNat ≤ 23 ∧ SomeHighBit s) ∧
    (t.out.status = 3#3 ↔ 1 ≤ s.inp.tokInLen.toNat ∧ s.inp.tokInLen.toNat ≤ 23 ∧ ¬ SomeHighBit s ∧
      SomeNonSymbol s)) ∧
  (∀ s : State, s.presented = true → s.inp.op ∈ reservedOps → ∃ t, step s = .next t ∧ t.out.status = 7#3) ∧
  ∀ s t, s.presented = true → step s = .next t → t.out.status ≠ 5#3 ∧ t.out.status ≠ 6#3

/-- One token, several widths: `[63]` is −1 at every width, and `[32, 0, 0, 0]` is negative at width 24 and
positive at width 32. -/
def Obligations.TokensDoNotRecordTheirWidth : Prop :=
  DecodesListed .dec24u .dec24s [([63#6], BitVec.allOnes 24), ([32#6, 0#6, 0#6, 0#6], 0x800000#24)] ∧
  DecodesListed .dec32u .dec32s [([63#6], BitVec.allOnes 32), ([32#6, 0#6, 0#6, 0#6], 0x00800000#32)] ∧
  DecodesListed .dec48u .dec48s [([63#6], BitVec.allOnes 48), ([32#6, 0#6, 0#6, 0#6], 0x000000800000#48)] ∧
  DecodesListed .dec64u .dec64s [([63#6], BitVec.allOnes 64), ([32#6, 0#6, 0#6, 0#6], 0x800000#64)] ∧
  DecodesListed .dec128u .dec128s [([63#6], BitVec.allOnes 128), ([32#6, 0#6, 0#6, 0#6], 0x800000#128)]

/-- Tokens that are accepted and decoded although they are not canonical. -/
def Obligations.AcceptedTokensNeedNotBeCanonical : Prop :=
  DecodesListed .dec24u .dec24s
    [([0#6, 0#6], 0#24), ([0#6, 5#6], 5#24), ([63#6, 63#6], 0xFFFFFF#24), ([0#6, 0#6, 0#6, 0#6], 0#24)] ∧
  DecodesListed .dec32u .dec32s [([63#6, 63#6, 0#6, 0#6, 0#6, 0#6], 0xFF000000#32)] ∧
  (∀ s, SymbolToken s [0#6, 0#6] → AnswersStatus .valid24 s .ok) ∧
  (∀ s, SymbolToken s [63#6, 63#6, 0#6, 0#6, 0#6, 0#6] → AnswersStatus .valid32 s .ok) ∧
  EncodesListed .enc24 (fun inp => inp.valLo.extractLsb' 0 24)
    [(0#24, [0#6]), (5#24, [5#6]), (0xFFFFFF#24, [63#6])] ∧
  EncodesListed .enc32 (fun inp => inp.valLo.extractLsb' 0 32)
    [(0xFF000000#32, [63#6, 0#6, 0#6, 0#6, 0#6])]
end

