-- ==== Sys2Proof/Laws/Outputs.lean ====
section
/-! SUPPORT. What the three forms of an answer put on each output port. -/

namespace Sys2Proof.Machine

@[simp] theorem statusOutputs_status (st : Status) : (statusOutputs st).status = st.code := rfl
@[simp] theorem statusOutputs_tokOutLen (st : Status) : (statusOutputs st).tokOutLen = 0#5 := rfl
@[simp] theorem statusOutputs_resHi (st : Status) : (statusOutputs st).resHi = 0#64 := rfl
@[simp] theorem statusOutputs_resLo (st : Status) : (statusOutputs st).resLo = 0#64 := rfl

@[simp] theorem tokenOutputs_status (cs : List Code) : (tokenOutputs cs).status = 0#3 := rfl
@[simp] theorem tokenOutputs_tokOutLen (cs : List Code) :
    (tokenOutputs cs).tokOutLen = BitVec.ofNat 5 cs.length := rfl
@[simp] theorem tokenOutputs_resHi (cs : List Code) : (tokenOutputs cs).resHi = 0#64 := rfl
@[simp] theorem tokenOutputs_resLo (cs : List Code) : (tokenOutputs cs).resLo = 0#64 := rfl

@[simp] theorem resultOutputs_status (r : Word128) : (resultOutputs r).status = 0#3 := rfl
@[simp] theorem resultOutputs_tokOutLen (r : Word128) : (resultOutputs r).tokOutLen = 0#5 := rfl
@[simp] theorem resultOutputs_resHi (r : Word128) : (resultOutputs r).resHi = r.extractLsb' 64 64 := rfl
@[simp] theorem resultOutputs_resLo (r : Word128) : (resultOutputs r).resLo = r.extractLsb' 0 64 := rfl

/-- A lane of 22 zero lanes is zero. -/
theorem replicate_lane_zero (j : Nat) : ((Vector.replicate 22 (0#8))[j]?).getD 0#8 = 0#8 := by
  rw [Vector.getElem?_replicate]
  split <;> rfl

/-- A status answer has no data. -/
theorem statusOutputs_noData (st : Status) : NoData (statusOutputs st) :=
  ⟨⟨rfl, fun j _ => replicate_lane_zero j⟩, rfl, rfl⟩

/-- A result answer has no token. -/
theorem resultOutputs_noToken (r : Word128) : NoToken (resultOutputs r) :=
  ⟨rfl, fun j _ => replicate_lane_zero j⟩

/-- A lane of a token answer: the character's code with bit 7 clear, or zero past the token. -/
theorem tokenOutputs_lane (cs : List Code) {j : Nat} (h : j < 22) :
    laneOut (tokenOutputs cs) j = match cs[j]? with
      | some c => laneOf c
      | none => 0#8 := by
  cases hc : cs[j]? <;> simp [laneOut, tokenOutputs, h, hc]

/-- The machine drives the listed code of every status. -/
@[simp] theorem code_eq_listedCode (st : Status) : st.code = listedCode st := by cases st <;> rfl

/-- A completed transaction answers a next state with the outputs given to it. -/
theorem complete_next (s : State) (o : Outputs) : complete s o = .next (s.answer o) := rfl

/-- `raise` answers a next state with the status and no data, the transaction over, inputs and ROMs as before. -/
theorem raise_answers (st : Status) (s : State) :
    ∃ t, raise st s = .next t ∧ Over s t ∧ t.out.status = listedCode st ∧ NoData t.out :=
  ⟨s.answer (statusOutputs st), rfl, ⟨rfl, rfl, rfl⟩, code_eq_listedCode st, statusOutputs_noData st⟩

end Sys2Proof.Machine
end

