-- ==== Sys2Proof/Laws/Decoder.lean ====
section
/-! SUPPORT. Everything a validate, a decode and an encode transaction can answer. -/

namespace Sys2Proof.Machine

/-- A token operation looks at its string only when the length is at most 23. -/
theorem tokenTooWide_iff (inp : Inputs) : tokenTooWide inp ↔ 23 < inp.tokInLen.toNat := Iff.rfl

/-- Everything a validate transaction can answer: an illegal request, or the class of its string. -/
theorem validWith_cases (e : Nat) (s : State) :
    (23 < s.inp.tokInLen.toNat ∧ validWith e s = .next (s.answer (statusOutputs .illegalReq))) ∨
      (s.inp.tokInLen.toNat ≤ 23 ∧
        validWith e s = .next (s.answer (statusOutputs (valid s.mem (tokenOperand s.inp) e)))) := by
  unfold validWith
  split
  · next h => exact .inl ⟨(tokenTooWide_iff _).mp h, rfl⟩
  · next h => exact .inr ⟨Nat.le_of_not_lt h, rfl⟩

/-- Everything a decode transaction can answer: an illegal request, the class its string is refused
with, or a result. -/
theorem decodeWith_cases (w : Nat) (result : List Block → Word128) (s : State) :
    (23 < s.inp.tokInLen.toNat ∧ decodeWith w result s = .next (s.answer (statusOutputs .illegalReq))) ∨
      (s.inp.tokInLen.toNat ≤ 23 ∧ valid s.mem (tokenOperand s.inp) w ≠ .ok ∧
        decodeWith w result s =
          .next (s.answer (statusOutputs (valid s.mem (tokenOperand s.inp) w)))) ∨
      (s.inp.tokInLen.toNat ≤ 23 ∧ valid s.mem (tokenOperand s.inp) w = .ok ∧
        decodeWith w result s =
          .next (s.answer (resultOutputs (result ((tokenOperand s.inp).map (charValue s.mem)))))) := by
  unfold decodeWith
  split
  · next h => exact .inl ⟨(tokenTooWide_iff _).mp h, rfl⟩
  · next h =>
    have hn : s.inp.tokInLen.toNat ≤ 23 := Nat.le_of_not_lt h
    cases hv : valid s.mem (tokenOperand s.inp) w with
    | ok => exact .inr (.inr ⟨hn, rfl, rfl⟩)
    | empty | highBit | wrongChar | tooLong | illegalReq =>
      exact .inr (.inl ⟨hn, by simp, rfl⟩)

/-- An encode transaction answers the token of its operand. -/
theorem encodeWith_next {w : Nat} (v : BitVec w) (s : State) :
    encodeWith v s = .next (s.answer (tokenOutputs (encodeValue s.mem v))) := rfl

/-- A lane below the presented length is a character of the token. -/
theorem tokenOperand_getElem? (inp : Inputs) {j : Nat} (h : j < inp.tokInLen.toNat) (h23 : j < 23) :
    (tokenOperand inp)[j]? = some (laneIn inp j) := by
  simp [tokenOperand, tokenLen, laneIn, h, h23]

/-- The token has as many characters as are presented, up to the port's lanes. -/
theorem tokenOperand_length (inp : Inputs) : (tokenOperand inp).length = min inp.tokInLen.toNat 23 := by
  simp [tokenOperand, tokenLen]

end Sys2Proof.Machine
end

