-- ==== Sys2Proof/Laws/Exec.lean ====
section
/-! SUPPORT. Each operation as its shared transaction: cite these instead of unfolding `exec`. -/

namespace Sys2Proof.Machine

theorem exec_enc24 (s : State) : exec .enc24 s = encodeWith (intOperand 24 s.inp) s := rfl
theorem exec_enc32 (s : State) : exec .enc32 s = encodeWith (intOperand 32 s.inp) s := rfl
theorem exec_enc48 (s : State) : exec .enc48 s = encodeWith (intOperand 48 s.inp) s := rfl
theorem exec_enc64 (s : State) : exec .enc64 s = encodeWith (intOperand 64 s.inp) s := rfl
theorem exec_enc128 (s : State) : exec .enc128 s = encodeWith (intOperand128 s.inp) s := rfl
theorem exec_dec24u (s : State) :
    exec .dec24u s = decodeWith 24 (fun vals => zext128 (decodeValue 24 vals)) s := rfl
theorem exec_dec32u (s : State) :
    exec .dec32u s = decodeWith 32 (fun vals => zext128 (decodeValue 32 vals)) s := rfl
theorem exec_dec48u (s : State) :
    exec .dec48u s = decodeWith 48 (fun vals => zext128 (decodeValue 48 vals)) s := rfl
theorem exec_dec64u (s : State) :
    exec .dec64u s = decodeWith 64 (fun vals => zext128 (decodeValue 64 vals)) s := rfl
theorem exec_dec128u (s : State) :
    exec .dec128u s = decodeWith 128 (fun vals => zext128 (decodeValue128 vals)) s := rfl
theorem exec_dec24s (s : State) :
    exec .dec24s s = decodeWith 24 (fun vals => sext128 (decodeValue 24 vals)) s := rfl
theorem exec_dec32s (s : State) :
    exec .dec32s s = decodeWith 32 (fun vals => sext128 (decodeValue 32 vals)) s := rfl
theorem exec_dec48s (s : State) :
    exec .dec48s s = decodeWith 48 (fun vals => sext128 (decodeValue 48 vals)) s := rfl
theorem exec_dec64s (s : State) :
    exec .dec64s s = decodeWith 64 (fun vals => sext128 (decodeValue 64 vals)) s := rfl
theorem exec_dec128s (s : State) :
    exec .dec128s s = decodeWith 128 (fun vals => sext128 (decodeValue128 vals)) s := rfl
theorem exec_valid0 (s : State) : exec .valid0 s = validWith 0 s := rfl
theorem exec_valid24 (s : State) : exec .valid24 s = validWith 24 s := rfl
theorem exec_valid32 (s : State) : exec .valid32 s = validWith 32 s := rfl
theorem exec_valid48 (s : State) : exec .valid48 s = validWith 48 s := rfl
theorem exec_valid64 (s : State) : exec .valid64 s = validWith 64 s := rfl
theorem exec_valid128 (s : State) : exec .valid128 s = validWith 128 s := rfl

end Sys2Proof.Machine
end

