-- ==== Sys2Proof/Laws/PerInstr.lean ====
section
/-! SUPPORT. Per-operation lemmas: every operation's word carries its class and its width, and is no reserved word (rules R50 to R52, R55, R56). -/

namespace Sys2Proof.Laws

/-- The word of an operation has the operation's class in `op[4:3]`, its width in `op[2:0]` (0 where it
expects none), and is not reserved. -/
abbrev WordFields.Statement (i : Instr) : Prop :=
  opClassOf (encode i) = i.opClass ∧ widthOf (wselOf (encode i)) = i.width? ∧
    (i.width? = none ↔ wselOf (encode i) = 0#3) ∧ opWordOk (encode i) = true

theorem WordFields.enc24 : WordFields.Statement .enc24 := by decide
theorem WordFields.enc32 : WordFields.Statement .enc32 := by decide
theorem WordFields.enc48 : WordFields.Statement .enc48 := by decide
theorem WordFields.enc64 : WordFields.Statement .enc64 := by decide
theorem WordFields.enc128 : WordFields.Statement .enc128 := by decide
theorem WordFields.dec24u : WordFields.Statement .dec24u := by decide
theorem WordFields.dec32u : WordFields.Statement .dec32u := by decide
theorem WordFields.dec48u : WordFields.Statement .dec48u := by decide
theorem WordFields.dec64u : WordFields.Statement .dec64u := by decide
theorem WordFields.dec128u : WordFields.Statement .dec128u := by decide
theorem WordFields.dec24s : WordFields.Statement .dec24s := by decide
theorem WordFields.dec32s : WordFields.Statement .dec32s := by decide
theorem WordFields.dec48s : WordFields.Statement .dec48s := by decide
theorem WordFields.dec64s : WordFields.Statement .dec64s := by decide
theorem WordFields.dec128s : WordFields.Statement .dec128s := by decide
theorem WordFields.valid0 : WordFields.Statement .valid0 := by decide
theorem WordFields.valid24 : WordFields.Statement .valid24 := by decide
theorem WordFields.valid32 : WordFields.Statement .valid32 := by decide
theorem WordFields.valid48 : WordFields.Statement .valid48 := by decide
theorem WordFields.valid64 : WordFields.Statement .valid64 := by decide
theorem WordFields.valid128 : WordFields.Statement .valid128 := by decide

end Sys2Proof.Laws
end

