-- ==== Sys2Proof/Laws/Rom.lean ====
section
/-! SUPPORT. What a read of a ROM answers, and what the inverse table holds. -/

namespace Sys2Proof.Machine

/-- The ROMs built from an admissible alphabet are well formed. -/
theorem Memory.ofAlpha_wf {t : Vector Code 64} (h : Config.AlphaOk t) : (Memory.ofAlpha t).wf := ⟨h, rfl⟩

theorem invFlag_symbolWord : ∀ v : Block, invFlag (symbolWord v) = false := by decide +kernel

theorem invVal_symbolWord : ∀ v : Block, invVal (symbolWord v) = v := by decide +kernel

theorem invFlag_nonSymbolWord : invFlag nonSymbolWord = true := by decide

theorem invVal_nonSymbolWord : invVal nonSymbolWord = 0#6 := by decide

/-- A word of the inverse table: the table's entry for its own address. -/
theorem readInv_of_wf {m : Memory} (h : m.wf) (c : Code) : readInv m c = invWordAt m.fwd c := by
  simp [readInv, h.2, inverseTable]

/-- Everything the inverse table can hold at an address: the value of the code, or the non-symbol word. -/
theorem invWordAt_cases (fwd : Vector Code 64) (c : Code) :
    (∃ v : Block, fwd[v.toNat]'v.isLt = c ∧ invWordAt fwd c = symbolWord v) ∨
      ((∀ v : Block, fwd[v.toNat]'v.isLt ≠ c) ∧ invWordAt fwd c = nonSymbolWord) := by
  unfold invWordAt
  cases h : fwd.toList.idxOf? c with
  | some k =>
    rw [List.idxOf?, List.findIdx?_eq_some_iff_getElem] at h
    obtain ⟨hk, he, -⟩ := h
    have hk' : k < 64 := by simpa using hk
    have hv : (BitVec.ofNat 6 k).toNat = k := by simp; omega
    refine .inl ⟨BitVec.ofNat 6 k, ?_, rfl⟩
    simpa [hv] using he
  | none =>
    rw [List.idxOf?, List.findIdx?_eq_none_iff] at h
    refine .inr ⟨fun v hv => ?_, rfl⟩
    have := h c (by rw [← hv]; simp)
    simp at this

/-- An admissible table gives different values different symbols. -/
theorem fwd_injective {t : Vector Code 64} (h : Config.AlphaOk t) {u v : Block}
    (e : t[u.toNat]'u.isLt = t[v.toNat]'v.isLt) : u = v := by
  apply BitVec.eq_of_toNat_eq
  have hn := List.nodup_iff_injective_get.mp h.2
  have := @hn ⟨u.toNat, by simpa using u.isLt⟩ ⟨v.toNat, by simpa using v.isLt⟩ (by simpa using e)
  simpa using this

end Sys2Proof.Machine
end

