-- ==== Sys2Proof/Laws/Splitter.lean ====
section
/-! SUPPORT. The length and the blocks of a split value. -/

namespace Sys2Proof.Machine

/-- A value of width `w` has `N(w)` blocks. -/
@[simp] theorem split_length {w : Nat} (v : BitVec w) : (split v).length = blocksOf w := by
  simp [split]

/-- Block `i` is six bits of the extended value, the first block the most significant. -/
theorem split_getElem? {w : Nat} (v : BitVec w) {i : Nat} (h : i < blocksOf w) :
    (split v)[i]? = some ((extendToBlocks v).extractLsb' (6 * (blocksOf w - 1 - i)) 6) := by
  simp [split, h]

/-- The blocks of a width cover it. -/
theorem le_six_mul_blocksOf (w : Nat) : w ≤ 6 * blocksOf w := by
  unfold blocksOf
  omega

end Sys2Proof.Machine
end

