-- ==== Sys2Proof/Laws/State.lean ====
section
/-! SUPPORT. One lemma per field per update of the state, so that no proof unfolds a record update. -/

namespace Sys2Proof.Machine

@[simp] theorem State.present_inp (s : State) (i : Inputs) : (s.present i).inp = i := rfl
@[simp] theorem State.present_presented (s : State) (i : Inputs) : (s.present i).presented = true := rfl
@[simp] theorem State.present_out (s : State) (i : Inputs) : (s.present i).out = s.out := rfl
@[simp] theorem State.present_mem (s : State) (i : Inputs) : (s.present i).mem = s.mem := rfl

@[simp] theorem State.answer_inp (s : State) (o : Outputs) : (s.answer o).inp = s.inp := rfl
@[simp] theorem State.answer_presented (s : State) (o : Outputs) : (s.answer o).presented = false := rfl
@[simp] theorem State.answer_out (s : State) (o : Outputs) : (s.answer o).out = o := rfl
@[simp] theorem State.answer_mem (s : State) (o : Outputs) : (s.answer o).mem = s.mem := rfl

@[simp] theorem State.withAlphabet_inp (s : State) (t : Config.AlphaTable) : (s.withAlphabet t).inp = s.inp := rfl
@[simp] theorem State.withAlphabet_presented (s : State) (t : Config.AlphaTable) :
    (s.withAlphabet t).presented = s.presented := rfl
@[simp] theorem State.withAlphabet_out (s : State) (t : Config.AlphaTable) : (s.withAlphabet t).out = s.out := rfl
@[simp] theorem State.withAlphabet_mem (s : State) (t : Config.AlphaTable) :
    (s.withAlphabet t).mem = Memory.ofAlpha t := rfl

@[simp] theorem State.withFetchWord_op (s : State) (nbits w : Nat) :
    (s.withFetchWord nbits w).inp.op = BitVec.ofNat 5 (w % 2 ^ nbits) := rfl
@[simp] theorem State.withFetchWord_valHi (s : State) (nbits w : Nat) :
    (s.withFetchWord nbits w).inp.valHi = s.inp.valHi := rfl
@[simp] theorem State.withFetchWord_valLo (s : State) (nbits w : Nat) :
    (s.withFetchWord nbits w).inp.valLo = s.inp.valLo := rfl
@[simp] theorem State.withFetchWord_tokInLen (s : State) (nbits w : Nat) :
    (s.withFetchWord nbits w).inp.tokInLen = s.inp.tokInLen := rfl
@[simp] theorem State.withFetchWord_tokIn (s : State) (nbits w : Nat) :
    (s.withFetchWord nbits w).inp.tokIn = s.inp.tokIn := rfl
@[simp] theorem State.withFetchWord_presented (s : State) (nbits w : Nat) :
    (s.withFetchWord nbits w).presented = true := rfl
@[simp] theorem State.withFetchWord_out (s : State) (nbits w : Nat) : (s.withFetchWord nbits w).out = s.out := rfl
@[simp] theorem State.withFetchWord_mem (s : State) (nbits w : Nat) : (s.withFetchWord nbits w).mem = s.mem := rfl

@[simp] theorem Memory.ofAlpha_fwd (t : Vector Code 64) : (Memory.ofAlpha t).fwd = t := rfl
@[simp] theorem Memory.ofAlpha_inv (t : Vector Code 64) : (Memory.ofAlpha t).inv = inverseTable t := rfl

@[simp] theorem State.reset_inp : State.reset.inp = Inputs.reset := rfl
@[simp] theorem State.reset_presented : State.reset.presented = false := rfl
@[simp] theorem State.reset_out : State.reset.out = Outputs.reset := rfl
@[simp] theorem State.reset_mem : State.reset.mem = Memory.ofAlpha Config.alpha.table := rfl

/-- Presenting twice is presenting the second time (DESIGN CHOICE, notes/assumptions/18.md). -/
@[simp] theorem State.present_present (s : State) (a b : Inputs) : (s.present a).present b = s.present b := rfl

/-- The host's presenting of inputs keeps the ROMs well formed. -/
theorem State.present_wf {s : State} (h : s.mem.wf) (i : Inputs) : (s.present i).mem.wf := h

/-- Driving the outputs keeps the ROMs well formed. -/
theorem State.answer_wf {s : State} (h : s.mem.wf) (o : Outputs) : (s.answer o).mem.wf := h

end Sys2Proof.Machine
end

