-- ==== Sys2Proof/Laws/Step.lean ====
section
/-! SUPPORT. What a step does: nothing without a presented transaction, else the selected operation or an illegal request. -/

namespace Sys2Proof.Machine

/-- Without a presented transaction a step changes nothing. -/
theorem step_of_not_presented {s : State} (h : s.presented = false) : step s = .next s := by
  simp [step, h, idle]

/-- With one, a step runs the operation the `op` port selects. -/
theorem step_of_decode {s : State} {i : Instr} (h : s.presented = true) (hi : decodeOp s.inp.op = .ok i) :
    step s = exec i s := by
  simp [step, h, fetch, hi]

/-- With one and a reserved word, a step is an illegal request. -/
theorem step_of_reserved {s : State} {e : DecodeError} (h : s.presented = true)
    (he : decodeOp s.inp.op = .error e) : step s = .next (s.answer (statusOutputs .illegalReq)) := by
  simp [step, h, fetch, he, raiseReserved, raise, complete]

/-- An encode's outputs are a function of the input ports and the ROMs. -/
theorem encodeWith_answers {w : Nat} (operand : Inputs → BitVec w) (inp : Inputs) (m : Memory) :
    ∃ o, ∀ s : State, s.inp = inp → s.mem = m → encodeWith (operand s.inp) s = .next (s.answer o) :=
  ⟨tokenOutputs (encodeValue m (operand inp)), by rintro s rfl rfl; exact encodeWith_next _ s⟩

/-- A validate's outputs are a function of the input ports and the ROMs. -/
theorem validWith_answers (e : Nat) (inp : Inputs) (m : Memory) :
    ∃ o, ∀ s : State, s.inp = inp → s.mem = m → validWith e s = .next (s.answer o) := by
  by_cases h : tokenTooWide inp
  · refine ⟨statusOutputs .illegalReq, ?_⟩
    rintro s rfl rfl
    simp only [validWith, if_pos h, raise, complete]
  · refine ⟨statusOutputs (valid m (tokenOperand inp) e), ?_⟩
    rintro s rfl rfl
    simp only [validWith, if_neg h, complete]

/-- A decode's outputs are a function of the input ports and the ROMs. -/
theorem decodeWith_answers (w : Nat) (f : List Block → Word128) (inp : Inputs) (m : Memory) :
    ∃ o, ∀ s : State, s.inp = inp → s.mem = m → decodeWith w f s = .next (s.answer o) := by
  by_cases h : tokenTooWide inp
  · refine ⟨statusOutputs .illegalReq, ?_⟩
    rintro s rfl rfl
    simp only [decodeWith, if_pos h, raise, complete]
  · by_cases hv : valid m (tokenOperand inp) w = .ok
    · refine ⟨resultOutputs (f ((tokenOperand inp).map (charValue m))), ?_⟩
      rintro s rfl rfl
      simp only [decodeWith, if_neg h, hv, complete]
    · refine ⟨statusOutputs (valid m (tokenOperand inp) w), ?_⟩
      rintro s rfl rfl
      rcases decodeWith_cases w f s with ⟨k, -⟩ | ⟨-, -, k⟩ | ⟨-, k, -⟩
      · exact absurd k h
      · exact k
      · exact absurd k hv

/-- Everything an operation can do: it drives the output ports, as a function of the input ports and the
ROMs alone, and ends the transaction. -/
theorem exec_answers (i : Instr) (inp : Inputs) (m : Memory) :
    ∃ o, ∀ s : State, s.inp = inp → s.mem = m → exec i s = .next (s.answer o) := by
  cases i with
  | enc24 => simpa only [exec_enc24] using encodeWith_answers (intOperand 24) inp m
  | enc32 => simpa only [exec_enc32] using encodeWith_answers (intOperand 32) inp m
  | enc48 => simpa only [exec_enc48] using encodeWith_answers (intOperand 48) inp m
  | enc64 => simpa only [exec_enc64] using encodeWith_answers (intOperand 64) inp m
  | enc128 => simpa only [exec_enc128] using encodeWith_answers intOperand128 inp m
  | dec24u => simpa only [exec_dec24u] using decodeWith_answers 24 _ inp m
  | dec32u => simpa only [exec_dec32u] using decodeWith_answers 32 _ inp m
  | dec48u => simpa only [exec_dec48u] using decodeWith_answers 48 _ inp m
  | dec64u => simpa only [exec_dec64u] using decodeWith_answers 64 _ inp m
  | dec128u => simpa only [exec_dec128u] using decodeWith_answers 128 _ inp m
  | dec24s => simpa only [exec_dec24s] using decodeWith_answers 24 _ inp m
  | dec32s => simpa only [exec_dec32s] using decodeWith_answers 32 _ inp m
  | dec48s => simpa only [exec_dec48s] using decodeWith_answers 48 _ inp m
  | dec64s => simpa only [exec_dec64s] using decodeWith_answers 64 _ inp m
  | dec128s => simpa only [exec_dec128s] using decodeWith_answers 128 _ inp m
  | valid0 => simpa only [exec_valid0] using validWith_answers 0 inp m
  | valid24 => simpa only [exec_valid24] using validWith_answers 24 inp m
  | valid32 => simpa only [exec_valid32] using validWith_answers 32 inp m
  | valid48 => simpa only [exec_valid48] using validWith_answers 48 inp m
  | valid64 => simpa only [exec_valid64] using validWith_answers 64 inp m
  | valid128 => simpa only [exec_valid128] using validWith_answers 128 inp m

/-- Everything a step with a presented transaction can do: the same, whatever the `op` port holds. -/
theorem step_answers (inp : Inputs) (m : Memory) :
    ∃ o, ∀ s : State, s.presented = true → s.inp = inp → s.mem = m → step s = .next (s.answer o) := by
  cases hd : decodeOp inp.op with
  | ok i =>
    obtain ⟨o, ho⟩ := exec_answers i inp m
    exact ⟨o, fun s hp hi hm => (step_of_decode hp (hi ▸ hd)).trans (ho s hi hm)⟩
  | error e => exact ⟨_, fun s hp hi _ => step_of_reserved hp (hi ▸ hd)⟩

end Sys2Proof.Machine
end

