-- ==== Sys2Proof/Laws/Trimmer.lean ====
section
/-! SUPPORT. The trimmer's scan, unfolded one block at a time. -/

namespace Sys2Proof.Machine

@[simp] theorem trim_singleton (b : Block) : trim [b] = 0 := rfl

theorem trim_cons_of_droppable {b next : Block} {rest : List Block} (h : droppable b next = true) :
    trim (b :: next :: rest) = trim (next :: rest) + 1 := by simp [trim, h]

theorem trim_cons_of_not_droppable {b next : Block} {rest : List Block} (h : droppable b next = false) :
    trim (b :: next :: rest) = 0 := by simp [trim, h]

/-- The final block is never trimmed. -/
theorem trim_lt_length : ∀ {b : List Block}, b ≠ [] → trim b < b.length
  | [_], _ => by simp
  | b :: next :: rest, _ => by
    have ih := trim_lt_length (b := next :: rest) (by simp)
    cases h : droppable b next with
    | true => rw [trim_cons_of_droppable h]; simpa using ih
    | false => rw [trim_cons_of_not_droppable h]; simp

/-- How many blocks survive. -/
theorem kept_length (b : List Block) : (kept b).length = b.length - trim b := by simp [kept]

end Sys2Proof.Machine
end

