-- ==== Sys2Proof/Laws/Validator.lean ====
section
/-! SUPPORT. The characters of a presented token, and the class `valid` gives a presented string, test by test. -/

namespace Sys2Proof.Machine

theorem tokenOperand_length_of_legal {s : State} (h : s.inp.tokInLen.toNat ≤ 23) :
    (tokenOperand s.inp).length = s.inp.tokInLen.toNat := by
  rw [tokenOperand_length]
  omega

/-- The characters of the token are the lanes below its length. -/
theorem mem_tokenOperand {s : State} (h : s.inp.tokInLen.toNat ≤ 23) (b : Byte) :
    b ∈ tokenOperand s.inp ↔ ∃ j < s.inp.tokInLen.toNat, laneIn s.inp j = b := by
  rw [List.mem_iff_getElem?]
  constructor
  · rintro ⟨j, hj⟩
    have hl : j < s.inp.tokInLen.toNat := by
      rw [← tokenOperand_length_of_legal h]
      by_contra hc
      rw [List.getElem?_eq_none (by omega)] at hj
      cases hj
    rw [tokenOperand_getElem? _ hl (by omega)] at hj
    exact ⟨j, hl, by simpa using hj⟩
  · rintro ⟨j, hl, rfl⟩
    exact ⟨j, tokenOperand_getElem? _ hl (by omega)⟩

theorem any_hasHighBit_iff {s : State} (h : s.inp.tokInLen.toNat ≤ 23) :
    (tokenOperand s.inp).any hasHighBit = true ↔ SomeHighBit s := by
  simp only [List.any_eq_true, mem_tokenOperand h, hasHighBit, SomeHighBit]
  constructor
  · rintro ⟨b, ⟨j, hj, rfl⟩, e⟩
    exact ⟨j, hj, e⟩
  · rintro ⟨j, hj, e⟩
    exact ⟨_, ⟨j, hj, rfl⟩, e⟩

theorem any_notSymbol_iff {s : State} (h : s.inp.tokInLen.toNat ≤ 23) :
    (tokenOperand s.inp).any (notSymbol s.mem) = true ↔ SomeNonSymbol s := by
  simp only [List.any_eq_true, mem_tokenOperand h, notSymbol, SomeNonSymbol]
  constructor
  · rintro ⟨b, ⟨j, hj, rfl⟩, e⟩
    exact ⟨j, hj, e⟩
  · rintro ⟨j, hj, e⟩
    exact ⟨_, ⟨j, hj, rfl⟩, e⟩

theorem tokenOperand_not_empty {s : State} (h1 : 1 ≤ s.inp.tokInLen.toNat) (h : s.inp.tokInLen.toNat ≤ 23) :
    (tokenOperand s.inp).isEmpty = false := by
  have hl := tokenOperand_length_of_legal h
  cases ht : tokenOperand s.inp with
  | nil =>
    rw [ht] at hl
    simp only [List.length_nil] at hl
    omega
  | cons => rfl

/-- No character: `EMPTY`, whatever width is expected. -/
theorem valid_of_no_characters {s : State} (h : s.inp.tokInLen.toNat = 0) (e : Nat) :
    valid s.mem (tokenOperand s.inp) e = .empty := by
  have : tokenOperand s.inp = [] := by simp [tokenOperand, tokenLen, h]
  simp [valid, this]

/-- A byte with bit 7 set: `HIGH_BIT`. -/
theorem valid_of_highBit {s : State} (h1 : 1 ≤ s.inp.tokInLen.toNat) (h : s.inp.tokInLen.toNat ≤ 23)
    (hb : SomeHighBit s) (e : Nat) : valid s.mem (tokenOperand s.inp) e = .highBit := by
  simp [valid, tokenOperand_not_empty h1 h, (any_hasHighBit_iff h).mpr hb]

/-- No such byte, and a byte that is no symbol: `WRONG_CHAR`. -/
theorem valid_of_nonSymbol {s : State} (h1 : 1 ≤ s.inp.tokInLen.toNat) (h : s.inp.tokInLen.toNat ≤ 23)
    (hb : ¬ SomeHighBit s) (hn : SomeNonSymbol s) (e : Nat) :
    valid s.mem (tokenOperand s.inp) e = .wrongChar := by
  have hb' : (tokenOperand s.inp).any hasHighBit = false := by simpa [← any_hasHighBit_iff h] using hb
  simp [valid, tokenOperand_not_empty h1 h, hb', (any_notSymbol_iff h).mpr hn]

/-- What presenting a token of block values says: no bad character, and the characters' values are these. -/
theorem symbolToken_characters {s : State} {vals : List Block} (h : SymbolToken s vals) :
    ¬ SomeHighBit s ∧ ¬ SomeNonSymbol s ∧ (tokenOperand s.inp).map (charValue s.mem) = vals := by
  obtain ⟨h1, h2, h3⟩ := h
  have key : ∀ j < vals.length, ∃ v, vals[j]? = some v ∧
      readInv s.mem (codeOf (laneIn s.inp j)) = symbolWord v := fun j hj =>
    ⟨vals[j], by simp [hj], by simpa [hj] using (h3 j hj).2⟩
  refine ⟨?_, ?_, ?_⟩
  · rintro ⟨j, hj, e⟩
    rw [(h3 j (by omega)).1] at e
    cases e
  · rintro ⟨j, hj, e⟩
    obtain ⟨v, -, hv⟩ := key j (by omega)
    rw [hv, invFlag_symbolWord] at e
    cases e
  · apply List.ext_getElem?
    intro j
    by_cases hj : j < vals.length
    · obtain ⟨v, hv, hr⟩ := key j hj
      rw [List.getElem?_map, tokenOperand_getElem? _ (by omega) (by omega), hv]
      simp [charValue, hr, invVal_symbolWord]
    · rw [List.getElem?_eq_none (by rw [List.length_map, tokenOperand_length]; omega),
        List.getElem?_eq_none (by omega)]

/-- The class of a string of symbols is decided by its length test alone. -/
theorem valid_of_symbols {s : State} {vals : List Block} (h : SymbolToken s vals) (hne : 1 ≤ vals.length)
    (e : Nat) : valid s.mem (tokenOperand s.inp) e =
      if e != 0 && lengthBad s.mem (tokenOperand s.inp) e then .tooLong else .ok := by
  obtain ⟨a, b, -⟩ := symbolToken_characters h
  obtain ⟨h1, h2, -⟩ := h
  have hn : s.inp.tokInLen.toNat ≤ 23 := by omega
  have ha : (tokenOperand s.inp).any hasHighBit = false := by simpa [← any_hasHighBit_iff hn] using a
  have hb : (tokenOperand s.inp).any (notSymbol s.mem) = false := by simpa [← any_notSymbol_iff hn] using b
  simp [valid, tokenOperand_not_empty (by omega) hn, ha, hb]

/-- The length test on a string of symbols, in terms of its values. -/
theorem lengthBad_of_symbols {s : State} {vals : List Block} (h : SymbolToken s vals) (hne : 1 ≤ vals.length)
    (e : Nat) : lengthBad s.mem (tokenOperand s.inp) e = true ↔
      (blocksOf e < vals.length ∨ (vals.length = blocksOf e ∧ restOf e ≠ 0 ∧
        ∃ f, vals.head? = some f ∧ leadingOk (restOf e) f = false)) := by
  obtain ⟨-, -, c⟩ := symbolToken_characters h
  have hl := tokenOperand_not_empty (s := s) (by have := h.1; omega) (by have := h.1; have := h.2.1; omega)
  rw [← c]
  cases ht : tokenOperand s.inp with
  | nil => simp [ht] at hl
  | cons x xs => simp [lengthBad, and_assoc]

end Sys2Proof.Machine
end

