-- ==== Sys2Proof/Tests/Slice0.lean ====
section
/-! SUPPORT. Small tests, each on one operation word, one check or one transaction. Expected results come from the spec's tables: 95_test_vectors.md (rows E, T), 96_test_vectors_decode_validate.md (rows D, V, X, G, W), and the rules named; and for every statement with hypotheses a state that meets them. -/

namespace Sys2Proof.Tests

set_option Elab.async false

open Sys2Proof Sys2Proof.Machine

/-! ## Well-formedness -/

/-- The test table T0 with the code of value 1 repeated as that of value 0. -/
def twiceTable : Config.AlphaTable := Config.t0.set 0 0x31#7

/-- The test table T0 with the code 31, one below the least code rule R80 allows. -/
def lowTable : Config.AlphaTable := Config.t0.set 0 31#7

theorem test_reserved_word_refused : opWordOk 0b00000#5 = false ∧ opWordOk 0b11111#5 = false := by decide
theorem test_legal_word_accepted : opWordOk 0b11000#5 = true ∧ opWordOk 0b00101#5 = true := by decide
theorem test_token_length_24_refused :
    tokLenOk .dec24u 24#5 = false ∧ tokLenOk .dec128s 24#5 = false ∧ tokLenOk .valid0 31#5 = false := by decide
theorem test_token_length_23_accepted : tokLenOk .dec24u 23#5 = true ∧ tokLenOk .enc24 31#5 = true := by decide
theorem test_repeated_symbol_refused : alphaTableOk twiceTable = false := by decide +kernel
theorem test_code_31_refused : alphaTableOk lowTable = false := by decide +kernel
theorem test_t0_accepted : alphaTableOk Config.t0 = true := by decide +kernel
theorem test_t1_accepted : alphaTableOk Config.t1 = true := by decide +kernel
theorem test_every_operation_well_formed : Instr.valid0.wellFormed = true := by decide

/-! ## Decoding, each word written out from the table of rule R55 -/

theorem test_word_enc24 : decodeTableWord 8 0b00001 = some .enc24 := by decide
theorem test_word_enc32 : decodeTableWord 8 0b00010 = some .enc32 := by decide
theorem test_word_enc48 : decodeTableWord 8 0b00011 = some .enc48 := by decide
theorem test_word_enc64 : decodeTableWord 8 0b00100 = some .enc64 := by decide
theorem test_word_enc128 : decodeTableWord 8 0b00101 = some .enc128 := by decide
theorem test_word_dec24u : decodeTableWord 8 0b01001 = some .dec24u := by decide
theorem test_word_dec32u : decodeTableWord 8 0b01010 = some .dec32u := by decide
theorem test_word_dec48u : decodeTableWord 8 0b01011 = some .dec48u := by decide
theorem test_word_dec64u : decodeTableWord 8 0b01100 = some .dec64u := by decide
theorem test_word_dec128u : decodeTableWord 8 0b01101 = some .dec128u := by decide
theorem test_word_dec24s : decodeTableWord 8 0b10001 = some .dec24s := by decide
theorem test_word_dec32s : decodeTableWord 8 0b10010 = some .dec32s := by decide
theorem test_word_dec48s : decodeTableWord 8 0b10011 = some .dec48s := by decide
theorem test_word_dec64s : decodeTableWord 8 0b10100 = some .dec64s := by decide
theorem test_word_dec128s : decodeTableWord 8 0b10101 = some .dec128s := by decide
theorem test_word_valid0 : decodeTableWord 8 0b11000 = some .valid0 := by decide
theorem test_word_valid24 : decodeTableWord 8 0b11001 = some .valid24 := by decide
theorem test_word_valid32 : decodeTableWord 8 0b11010 = some .valid32 := by decide
theorem test_word_valid48 : decodeTableWord 8 0b11011 = some .valid48 := by decide
theorem test_word_valid64 : decodeTableWord 8 0b11100 = some .valid64 := by decide
theorem test_word_valid128 : decodeTableWord 8 0b11101 = some .valid128 := by decide

theorem test_reserved_word_decode : decode [0b00110#8] = .error (.reservedOp 0b00110#5) := by rfl
theorem test_high_bit_word_decode : decode [0b00100001#8] = .error (.notOpWord 0b00100001#8) := by rfl
theorem test_no_word_decode : decode [] = .error .noWord := by rfl

/-! ## Transactions -/

/-- A block built with a table, with a transaction presented: the given values on its input ports; lanes past the token hold 0x80. -/
def ports (op : BitVec 5) (hi lo : Nat) (tok : List Nat) (len : Nat := tok.length)
    (table : Config.AlphaTable := Config.t0) : State :=
  { inp :=
      { op := op, valHi := BitVec.ofNat 64 hi, valLo := BitVec.ofNat 64 lo, tokInLen := BitVec.ofNat 5 len,
        tokIn := Vector.ofFn fun j => BitVec.ofNat 8 (tok.getD j.val 0x80) }
    presented := true
    out := statusOutputs .illegalReq
    mem := Memory.ofAlpha table }

/-- A T0 block with a token operation on bytes. -/
def onToken (i : Instr) (tok : List Nat) : State := ports (encode i) 0 0 tok

/-- A T0 block with an encode of two operand words. -/
def onValue (i : Instr) (hi lo : Nat) : State := ports (encode i) hi lo []

/-- The outputs one step answers. -/
def answer (s : State) : Outputs :=
  match step s with
  | .next t => t.out
  | .fault _ => s.out
  | .refused _ => s.out

/-- The status code, the token's bytes and the two result words of an answer. -/
def seen (s : State) : Nat × List Nat × Nat × Nat :=
  let o := answer s
  (o.status.toNat, (o.tokOut.toList.take o.tokOutLen.toNat).map (·.toNat), o.resHi.toNat, o.resLo.toNat)

/-- All 64 bits set. -/
def ones64 : Nat := 0xFFFFFFFFFFFFFFFF

theorem test_enc24_e14 : seen (onValue .enc24 0 0xFFFFBF) = (0, [0x6F, 0x6E, 0x6F], 0, 0) := by decide +kernel
theorem test_enc24_g1 :
    seen (ports 1 ones64 0xFFFFFFFFFF00003F [] 31) = (0, [0x30, 0x6F], 0, 0) := by decide +kernel
theorem test_enc32_e32 :
    seen (onValue .enc32 0 0xC0A80001) = (0, [0x6F, 0x30, 0x5A, 0x30, 0x30, 0x31], 0, 0) := by decide +kernel
theorem test_enc32_e36 :
    seen (onValue .enc32 0 0x00FFFFFF) = (0, [0x30, 0x6F, 0x6F, 0x6F, 0x6F], 0, 0) := by decide +kernel
theorem test_enc48_e41 : seen (onValue .enc48 0 0x001A2B3C4D5E) =
    (0, [0x31, 0x58, 0x5B, 0x3F, 0x34, 0x65, 0x4E], 0, 0) := by decide +kernel
theorem test_enc48_e44 : seen (onValue .enc48 0 0xFC0000000000) =
    (0, [0x6F, 0x30, 0x30, 0x30, 0x30, 0x30, 0x30, 0x30], 0, 0) := by decide +kernel
theorem test_enc64_e53 : seen (onValue .enc64 0 0x0123456789ABCDEF) =
    (0, [0x34, 0x53, 0x41, 0x46, 0x4E, 0x39, 0x5A, 0x6C, 0x67, 0x5F], 0, 0) := by decide +kernel
theorem test_enc64_e49 : seen (onValue .enc64 0 0x8000000000000000) =
    (0, 0x68 :: List.replicate 10 0x30, 0, 0) := by decide +kernel
theorem test_enc128_e66 : seen (onValue .enc128 1 0) = (0, 0x40 :: List.replicate 10 0x30, 0, 0) := by decide +kernel
theorem test_enc128_e61 :
    seen (onValue .enc128 0x7FFFFFFFFFFFFFFF ones64) = (0, 0x31 :: List.replicate 21 0x6F, 0, 0) := by decide +kernel
theorem test_dec24u_example : seen (onToken .dec24u [0x6F, 0x6E, 0x6F]) = (0, [], 0, 0xFFFFBF) := by decide +kernel
theorem test_dec24u_d128 : seen (onToken .dec24u [0x6F, 0x6F, 0x6F, 0x6F, 0x6F]) = (4, [], 0, 0) := by decide +kernel
theorem test_dec24s_w2 :
    seen (onToken .dec24s [0x50, 0x30, 0x30, 0x30]) = (0, [], ones64, 0xFFFFFFFFFF800000) := by decide +kernel
theorem test_dec24s_d125 : seen (onToken .dec24s [0x70]) = (3, [], 0, 0) := by decide +kernel
theorem test_dec32u_example :
    seen (onToken .dec32u [0x6F, 0x30, 0x5A, 0x30, 0x30, 0x31]) = (0, [], 0, 0xC0A80001) := by decide +kernel
theorem test_dec32u_d130 :
    seen (onToken .dec32u [0x32, 0x30, 0x30, 0x30, 0x30, 0x30]) = (4, [], 0, 0) := by decide +kernel
theorem test_dec32s_d50 : seen (onToken .dec32s [0x6E, 0x30, 0x30, 0x30, 0x30, 0x30]) =
    (0, [], ones64, 0xFFFFFFFF80000000) := by decide +kernel
theorem test_dec32s_d122 : seen (onToken .dec32s [0x20, 0x80]) = (2, [], 0, 0) := by decide +kernel
theorem test_dec48u_w9 : seen (onToken .dec48u [0x6F, 0x30, 0x5A, 0x30, 0x30, 0x31, 0x30]) =
    (0, [], 0, 0x0000FFF02A000040) := by decide +kernel
theorem test_dec48u_d133 : seen (onToken .dec48u (List.replicate 9 0x30)) = (4, [], 0, 0) := by decide +kernel
theorem test_dec48s_d68 : seen (onToken .dec48s [0x6F, 0x6E]) = (0, [], ones64, 0xFFFFFFFFFFFFFFFE) := by decide +kernel
theorem test_dec48s_d72 :
    seen (onToken .dec48s (0x50 :: List.replicate 7 0x30)) = (0, [], ones64, 0xFFFF800000000000) := by decide +kernel
theorem test_dec64u_example :
    seen (onToken .dec64u [0x34, 0x53, 0x41, 0x46, 0x4E, 0x39, 0x5A, 0x6C, 0x67, 0x5F]) =
      (0, [], 0, 0x0123456789ABCDEF) := by decide +kernel
theorem test_dec64u_d134 : seen (onToken .dec64u (0x38 :: List.replicate 10 0x30)) = (4, [], 0, 0) := by decide +kernel
theorem test_dec64s_example :
    seen (onToken .dec64s [0x6F, 0x6B, 0x4C, 0x5E, 0x59, 0x51, 0x66, 0x45, 0x33, 0x38, 0x40]) =
      (0, [], ones64, 0xFEDCBA9876543210) := by decide +kernel
theorem test_dec64s_d135 : seen (onToken .dec64s (0x67 :: List.replicate 10 0x30)) = (4, [], 0, 0) := by decide +kernel
theorem test_dec128u_example :
    seen (onToken .dec128u (0x40 :: List.replicate 10 0x30)) = (0, [], 1, 0) := by decide +kernel
theorem test_dec128u_d140 : seen (onToken .dec128u (List.replicate 23 0x30)) = (4, [], 0, 0) := by decide +kernel
theorem test_dec128s_example : seen (onToken .dec128s (0x6F :: 0x60 :: List.replicate 10 0x30)) =
    (0, [], ones64, 0) := by decide +kernel
theorem test_dec128s_x15 : seen (ports 21 0 0 [] 31) = (7, [], 0, 0) := by decide +kernel
theorem test_valid0_v5 : seen (onToken .valid0 (List.replicate 23 0x30)) = (0, [], 0, 0) := by decide +kernel
theorem test_valid0_v7 : seen (onToken .valid0 [0x6F, 0x80, 0x20]) = (2, [], 0, 0) := by decide +kernel
theorem test_valid24_v20 : seen (onToken .valid24 [0x50, 0x30, 0x30, 0x30]) = (0, [], 0, 0) := by decide +kernel
theorem test_valid24_v23 : seen (onToken .valid24 [0x30, 0x30, 0x30, 0x30, 0x20]) = (3, [], 0, 0) := by decide +kernel
theorem test_valid32_v32 :
    seen (onToken .valid32 [0x6C, 0x30, 0x30, 0x30, 0x30, 0x30]) = (4, [], 0, 0) := by decide +kernel
theorem test_valid32_v37 :
    seen (ports 26 0 0 [0x7D, 0x7E, 0x7E, 0x7E, 0x7E, 0x7E] 6 Config.t1) = (0, [], 0, 0) := by decide +kernel
theorem test_valid48_v39 : seen (onToken .valid48 (List.replicate 8 0x55)) = (0, [], 0, 0) := by decide +kernel
theorem test_valid48_v40 : seen (onToken .valid48 (List.replicate 9 0x30)) = (4, [], 0, 0) := by decide +kernel
theorem test_valid64_v41 : seen (onToken .valid64 (0x37 :: List.replicate 10 0x6F)) = (0, [], 0, 0) := by decide +kernel
theorem test_valid64_v46 : seen (onToken .valid64 (0x60 :: List.replicate 10 0x30)) = (4, [], 0, 0) := by decide +kernel
theorem test_valid128_v50 : seen (onToken .valid128 (0x6E :: List.replicate 21 0x30)) = (0, [], 0, 0) := by decide +kernel
theorem test_valid128_v54 :
    seen (onToken .valid128 (List.replicate 22 0x30 ++ [0x80])) = (2, [], 0, 0) := by decide +kernel
/-- Row X1: a reserved word, with values on every other port. -/
theorem test_reserved_x1 : seen (ports 0 5 5 [0x30]) = (7, [], 0, 0) := by decide +kernel

/-- Row T3: the scan does not resume. -/
theorem test_trim_t3 : trim [0#6, 0#6, 63#6, 63#6] = 1 := by decide
/-- Row T6. -/
theorem test_trim_t6 : trim [63#6, 63#6, 0#6, 63#6] = 1 := by decide
/-- Rule R92's example: block 11 is 16 when the high word is 1 and the low word 0. -/
theorem test_split_straddle :
    (split (0x00000000000000010000000000000000#128))[11]? = some 16#6 := by decide +kernel

/-! ## Witnesses: for every statement with hypotheses, states and operands that meet them -/

theorem witness_romsWellFormed :
    (Memory.ofAlpha Config.t0).wf ∧ (Memory.ofAlpha Config.t1).wf :=
  ⟨Memory.ofAlpha_wf (of_decide_eq_true test_t0_accepted), Memory.ofAlpha_wf (of_decide_eq_true test_t1_accepted)⟩

/-- ReservedWordsAreTheElevenListed: a reserved word and a legal one. -/
theorem witness_ReservedWords :
    (ports 0b11111 0 0 []).presented = true ∧ (ports 0b11111 0 0 []).inp.op ∈ reservedOps ∧ (0b00001#5) ∉ reservedOps := by decide

/-- StepRunsTheSelectedOperation. -/
theorem witness_StepRuns :
    (onToken .valid0 [0x30]).presented = true ∧ decodeOp (onToken .valid0 [0x30]).inp.op = .ok .valid0 := ⟨rfl, rfl⟩

/-- IdleUntilPresentedThenOneTransaction: a state with nothing presented that is not the reset state, its
answer still held, and its step (rule R221). -/
theorem witness_Idle :
    ((onToken .valid0 [0x30]).answer (statusOutputs .ok)).presented = false ∧
      step ((onToken .valid0 [0x30]).answer (statusOutputs .ok)) =
        .next ((onToken .valid0 [0x30]).answer (statusOutputs .ok)) := ⟨rfl, rfl⟩

/-- Rule R221: from reset a step with nothing presented changes nothing. -/
theorem test_reset_is_idle : step State.reset = .next State.reset := rfl

/-- IllegalRequestsAreExactlyThese: both causes, and both sides of the boundary between lengths 23 and 24. -/
theorem witness_IllegalRequests :
    (answer (ports 0b00110 0 0 [])).status = 7#3 ∧ (answer (ports 0b01001 0 0 [] 24)).status = 7#3 ∧
      (answer (ports 0b01001 0 0 [] 23)).status = 2#3 ∧ (answer (ports 0b00001 0 0 [] 24)).status = 0#3 := by
  decide +kernel

/-- A T0 block that has answered `EMPTY`, and then is presented the same inputs as `onToken`. -/
def onTokenAgain (i : Instr) (tok : List Nat) : State :=
  ((onToken i tok).answer (statusOutputs .empty)).present (onToken i tok).inp

/-- AnswersDependOnInputsAndRomsOnly: two states that differ in the held outputs only. -/
theorem witness_AnswersDependOnInputs :
    (onTokenAgain .dec24u [0x30]).presented = true ∧ (onToken .dec24u [0x30]).presented = true ∧
      (onTokenAgain .dec24u [0x30]).inp = (onToken .dec24u [0x30]).inp ∧
      (onTokenAgain .dec24u [0x30]).mem = (onToken .dec24u [0x30]).mem ∧
      (onTokenAgain .dec24u [0x30]).out ≠ (onToken .dec24u [0x30]).out :=
  ⟨rfl, rfl, rfl, rfl, by decide +kernel⟩

/-- EncodersIgnoreWhatTheyDoNotRead: states that differ above the operand (rows G1 to G4), and in the token port. -/
theorem witness_EncodersIgnore :
    (ports 1 0 0x3F []).mem.fwd = (ports 1 ones64 0xFFFFFFFFFF00003F [] 31).mem.fwd ∧
      (ports 1 0 0x3F []).inp.valLo.extractLsb' 0 24 =
        (ports 1 ones64 0xFFFFFFFFFF00003F [] 31).inp.valLo.extractLsb' 0 24 ∧
      (ports 2 0 0x3F []).inp.valLo.extractLsb' 0 32 =
        (ports 2 0x1234 0x123456780000003F []).inp.valLo.extractLsb' 0 32 ∧
      (ports 3 0 0 []).inp.valLo.extractLsb' 0 48 =
        (ports 3 ones64 0xFFFF000000000000 []).inp.valLo.extractLsb' 0 48 ∧
      (ports 4 0 0 []).inp.valLo.extractLsb' 0 64 = (ports 4 ones64 0 []).inp.valLo.extractLsb' 0 64 ∧
      (ports 5 1 2 []).inp.valHi = (ports 5 1 2 [0x30] 31).inp.valHi ∧
      (ports 5 1 2 []).inp.valLo = (ports 5 1 2 [0x30] 31).inp.valLo := by decide +kernel

/-- TokenOperationsIgnoreWhatTheyDoNotRead: states that differ in the value ports and the lanes past the
token (rows G5, G6), in the outputs and in `FWD`'s absence from the hypotheses. -/
theorem witness_TokenOperationsIgnore :
    Instr.dec24u.opClass ≠ .enc ∧ (ports 9 0 0 [0x6F]).mem.inv = (ports 9 7 8 [0x6F, 0x20] 1).mem.inv ∧
      (ports 9 0 0 [0x6F]).inp.tokInLen = (ports 9 7 8 [0x6F, 0x20] 1).inp.tokInLen ∧
      (∀ j < (ports 9 0 0 [0x6F]).inp.tokInLen.toNat,
        laneIn (ports 9 0 0 [0x6F]).inp j = laneIn (ports 9 7 8 [0x6F, 0x20] 1).inp j) ∧
      (ports 9 0 0 [0x6F]).inp ≠ (ports 9 7 8 [0x6F, 0x20] 1).inp := by decide +kernel

/-- EveryStepKeepsTheRomsWellFormed, EveryAnswerMeetsThePortRules: a state with well-formed ROMs whose
step answers a token. -/
theorem witness_StepFromWellFormedRoms :
    (onValue .enc32 0 5).mem.wf ∧ (onValue .enc32 0 5).presented = true ∧
      step (onValue .enc32 0 5) = .next ((onValue .enc32 0 5).answer (answer (onValue .enc32 0 5))) ∧
      0 < (answer (onValue .enc32 0 5)).tokOutLen.toNat :=
  ⟨witness_romsWellFormed.1, rfl, rfl, by decide +kernel⟩

/-- An idle T0 block that still holds the one-character token `0` it answered. -/
def idleWithToken : State := (onValue .enc24 0 0).answer (tokenOutputs [0x30#7])

/-- EveryAnswerMeetsThePortRules, the second case of its premise: no transaction presented, and output ports
that obey the rules, a token among them. -/
theorem witness_IdleWithRuledOutputs :
    idleWithToken.presented = false ∧ OutputsOk idleWithToken.mem idleWithToken.out ∧
      idleWithToken.mem.wf ∧ 0 < idleWithToken.out.tokOutLen.toNat ∧ step idleWithToken = .next idleWithToken := by
  refine ⟨rfl, ⟨by decide, fun h => absurd rfl h, by decide, ?_, by decide +kernel, fun _ => ⟨rfl, rfl⟩⟩,
    witness_romsWellFormed.1, by decide, rfl⟩
  intro j hj
  have hj0 : j = 0 := Nat.lt_one_iff.mp hj
  subst hj0
  exact ⟨0#6, by decide +kernel⟩

/-- FirstTransactionAfterResetIsLikeAnyOther: another history with the same ROMs. -/
theorem witness_FirstTransaction (i : Inputs) :
    ((State.reset.answer (statusOutputs .tooLong)).present i).mem = State.reset.mem ∧
      ((State.reset.answer (statusOutputs .tooLong)).present i).presented = true ∧
      ((State.reset.answer (statusOutputs .tooLong)).present i).inp = i := ⟨rfl, rfl, rfl⟩

/-- FirstTransactionAfterResetIsLikeAnyOther: some code is no symbol, whatever the alphabet is (rule R80). -/
theorem witness_FirstTransaction_noSymbol (v : Block) : readFwd State.reset.mem v ≠ 0#7 := by
  intro h
  have hm : readFwd State.reset.mem v ∈ Config.alpha.table.toList := by simp [readFwd]
  have h32 := Config.alpha.ok.1 _ hm
  rw [h] at h32
  exact absurd h32 (by decide)

/-- InverseRomUndoesForwardRom, ValueOfInvertsSymbolOf: a symbol and codes that are none. -/
theorem witness_InverseRom :
    invFlag (readInv (Memory.ofAlpha Config.t0) 0x6F#7) = false ∧
      valueOf (Memory.ofAlpha Config.t0) 0x30#7 = some 0#6 ∧
      valueOf (Memory.ofAlpha Config.t0) 31#7 = none := by decide +kernel

/-- AlphabetReadsOutThroughOperations: each of its clauses. -/
theorem witness_AlphabetReadsOut :
    (onValue .enc24 0 62).mem.wf ∧ (onValue .enc24 0 62).inp.valLo.extractLsb' 0 24 = (62#6).setWidth 24 ∧
      (onValue .enc24 0 0xFFFFFF).inp.valLo.extractLsb' 0 24 = 0xFFFFFF#24 ∧
      (onToken .valid0 [0x20]).inp.tokInLen = 1#5 ∧ laneIn (onToken .valid0 [0x20]).inp 0 = 0#1 ++ 0x20#7 ∧
      valueOf (onToken .valid0 [0x20]).mem 0x20#7 = none ∧
      laneIn (onToken .valid0 [0x6F]).inp 0 = 0#1 ++ 0x6F#7 ∧
      valueOf (onToken .valid0 [0x6F]).mem 0x6F#7 = some 63#6 ∧
      valueOf (onToken .valid0 [0x6E]).mem 0x6E#7 = some 62#6 :=
  ⟨witness_romsWellFormed.1, by decide +kernel⟩

/-- TrimIndexIsTheFirstUndroppable: lists that stop early and that stop at the last block. -/
theorem witness_TrimIndex :
    trim [0#6, 5#6, 0#6, 0#6] < [0#6, 5#6, 0#6, 0#6].length - 1 ∧ 0 < trim [0#6, 5#6, 0#6, 0#6] ∧
      trim [63#6, 63#6, 63#6, 63#6] = 3 := by decide

/-- DroppedPrefixTellsTheSign, CanonicalLengthClosedForm, TrimmingKeepsTheValueAndIsIrreducible: values
of each sign with and without a dropped prefix (rows E1, E11, E14, E18). -/
theorem witness_TrimmedValues :
    24 ∈ supportedWidths ∧ 128 ∈ supportedWidths ∧
      0 ≤ (0#24).toInt ∧ trim (split (0#24)) = 3 ∧ 0 ≤ (0x03F000#24).toInt ∧ trim (split (0x03F000#24)) = 0 ∧
      1 < (encodeBlocks (0x03F000#24)).length ∧
      (0xFFFFBF#24).toInt < 0 ∧ trim (split (0xFFFFBF#24)) = 1 ∧ 2 < (split (0xFFFFBF#24)).length ∧
      (0x800000#24).toInt < 0 ∧ (encodeBlocks (0x800000#24)).length = (24 + 5) / 6 := by decide +kernel

/-- CanonicalTokenIsShortest: a longer list than the canonical one that decodes to the value. -/
theorem witness_CanonicalTokenIsShortest :
    [0#6, 0#6] ≠ [] ∧ decodeValue 24 [0#6, 0#6] = 0#24 ∧ (encodeBlocks (0#24)).length = 1 := by decide +kernel

/-- CanonicalTokenIsUnique: a short list, and a full-length list whose leading block is tested. -/
theorem witness_CanonicalTokenIsUnique :
    ([63#6, 62#6].length = (encodeBlocks (0xFFFFFE#24)).length ∧ decodeValue 24 [63#6, 62#6] = 0xFFFFFE#24) ∧
      ([62#6, 0#6, 0#6, 0#6, 0#6, 0#6].length = (encodeBlocks (0x80000000#32)).length ∧
        decodeValue 32 [62#6, 0#6, 0#6, 0#6, 0#6, 0#6] = 0x80000000#32 ∧
        [62#6, 0#6, 0#6, 0#6, 0#6, 0#6].length = (32 + 5) / 6 ∧ 32 % 6 ≠ 0 ∧
        ∃ f, [62#6, 0#6, 0#6, 0#6, 0#6, 0#6].head? = some f ∧ leadingOk (32 % 6) f = true) :=
  ⟨by decide +kernel, by decide +kernel, by decide +kernel, by decide, by decide, 62#6, rfl, by decide⟩

/-- The statements about the encoders: their listed operands at both ends of each width, under T0. -/
theorem witness_EncodesListed :
    (onValue .enc24 0 0x800000).inp.valLo.extractLsb' 0 24 = 0x800000#24 ∧
      (onValue .enc32 0 0x80000000).inp.valLo.extractLsb' 0 32 = 0x80000000#32 ∧
      (onValue .enc48 0 0x7FFFFFFFFFFF).inp.valLo.extractLsb' 0 48 = 0x7FFFFFFFFFFF#48 ∧
      (onValue .enc64 0 0x8000000000000000).inp.valLo = 0x8000000000000000#64 ∧
      (onValue .enc128 ones64 0).inp.valHi ++ (onValue .enc128 ones64 0).inp.valLo =
        0xFFFFFFFFFFFFFFFF0000000000000000#128 ∧
      (onValue .enc128 ones64 0).mem = Memory.ofAlpha Config.t0 := by decide +kernel

/-- The statements about width 24 and 48: the shortest and the longest token that fits, one too many. -/
theorem witness_TokensWithoutLeadingTest :
    SymbolToken (onToken .dec24u [0x6F]) [63#6] ∧ FitsWidth 4 anyLead [63#6] ∧
      SymbolToken (onToken .dec24u [0x50, 0x30, 0x30, 0x30]) [32#6, 0#6, 0#6, 0#6] ∧
      FitsWidth 4 anyLead [32#6, 0#6, 0#6, 0#6] ∧
      SymbolToken (onToken .dec24s [0x30, 0x30, 0x30, 0x30, 0x30]) [0#6, 0#6, 0#6, 0#6, 0#6] ∧
      TooLongFor 4 anyLead [0#6, 0#6, 0#6, 0#6, 0#6] ∧
      SymbolToken (onToken .dec48u (List.replicate 8 0x55)) (List.replicate 8 37#6) ∧
      FitsWidth 8 anyLead (List.replicate 8 37#6) ∧
      SymbolToken (onToken .dec48u (List.replicate 9 0x30)) (List.replicate 9 0#6) ∧
      TooLongFor 8 anyLead (List.replicate 9 0#6) := by
  refine ⟨?_, ?_, ?_, ?_, ?_, ?_, ?_, ?_, ?_, ?_⟩ <;> decide +kernel

/-- The statements about width 32: full length with leading values 1, 2, 61 and 62, and one too many. -/
theorem witness_TokensOf32 :
    SymbolToken (onToken .dec32u [0x31, 0x30, 0x30, 0x30, 0x30, 0x30]) [1#6, 0#6, 0#6, 0#6, 0#6, 0#6] ∧
      FitsWidth 6 rest2Leads [1#6, 0#6, 0#6, 0#6, 0#6, 0#6] ∧
      SymbolToken (onToken .dec32u [0x32, 0x30, 0x30, 0x30, 0x30, 0x30]) [2#6, 0#6, 0#6, 0#6, 0#6, 0#6] ∧
      TooLongFor 6 rest2Leads [2#6, 0#6, 0#6, 0#6, 0#6, 0#6] ∧
      SymbolToken (onToken .dec32s [0x6D, 0x30, 0x30, 0x30, 0x30, 0x30]) [61#6, 0#6, 0#6, 0#6, 0#6, 0#6] ∧
      TooLongFor 6 rest2Leads [61#6, 0#6, 0#6, 0#6, 0#6, 0#6] ∧
      SymbolToken (onToken .valid32 [0x6E, 0x30, 0x30, 0x30, 0x30, 0x30]) [62#6, 0#6, 0#6, 0#6, 0#6, 0#6] ∧
      FitsWidth 6 rest2Leads [62#6, 0#6, 0#6, 0#6, 0#6, 0#6] ∧
      SymbolToken (onToken .valid32 (List.replicate 7 0x30)) (List.replicate 7 0#6) ∧
      TooLongFor 6 rest2Leads (List.replicate 7 0#6) := by
  refine ⟨?_, ?_, ?_, ?_, ?_, ?_, ?_, ?_, ?_, ?_⟩ <;> decide +kernel

/-- The statements about width 64: full length with leading values 7, 8, 55 and 56, ten characters with any
leading value, and one too many. -/
theorem witness_TokensOf64 :
    SymbolToken (onToken .dec64u (0x37 :: List.replicate 10 0x6F)) (7#6 :: List.replicate 10 63#6) ∧
      FitsWidth 11 rest4Leads (7#6 :: List.replicate 10 63#6) ∧
      SymbolToken (onToken .dec64u (0x38 :: List.replicate 10 0x30)) (8#6 :: List.replicate 10 0#6) ∧
      TooLongFor 11 rest4Leads (8#6 :: List.replicate 10 0#6) ∧
      SymbolToken (onToken .dec64s (0x67 :: List.replicate 10 0x30)) (55#6 :: List.replicate 10 0#6) ∧
      TooLongFor 11 rest4Leads (55#6 :: List.replicate 10 0#6) ∧
      SymbolToken (onToken .valid64 (0x68 :: List.replicate 10 0x30)) (56#6 :: List.replicate 10 0#6) ∧
      FitsWidth 11 rest4Leads (56#6 :: List.replicate 10 0#6) ∧
      FitsWidth 11 rest4Leads (32#6 :: List.replicate 9 0#6) ∧
      SymbolToken (onToken .valid64 (List.replicate 12 0x30)) (List.replicate 12 0#6) ∧
      TooLongFor 11 rest4Leads (List.replicate 12 0#6) := by
  refine ⟨?_, ?_, ?_, ?_, ?_, ?_, ?_, ?_, ?_, ?_, ?_⟩ <;> decide +kernel

/-- The statements about width 128: full length with leading values 1, 2 and 62, and the 23 characters of
the whole port. -/
theorem witness_TokensOf128 :
    SymbolToken (onToken .dec128u (0x31 :: List.replicate 21 0x6F)) (1#6 :: List.replicate 21 63#6) ∧
      FitsWidth 22 rest2Leads (1#6 :: List.replicate 21 63#6) ∧
      SymbolToken (onToken .dec128s (0x32 :: List.replicate 21 0x30)) (2#6 :: List.replicate 21 0#6) ∧
      TooLongFor 22 rest2Leads (2#6 :: List.replicate 21 0#6) ∧
      SymbolToken (onToken .valid128 (0x6E :: List.replicate 21 0x30)) (62#6 :: List.replicate 21 0#6) ∧
      FitsWidth 22 rest2Leads (62#6 :: List.replicate 21 0#6) ∧
      SymbolToken (onToken .valid128 (List.replicate 23 0x30)) (List.replicate 23 0#6) ∧
      TooLongFor 22 rest2Leads (List.replicate 23 0#6) := by
  refine ⟨?_, ?_, ?_, ?_, ?_, ?_, ?_, ?_⟩ <;> decide +kernel

/-- RefusesBadStrings: each of its clauses, at lengths 24, 31, 0, 1 and 23, the bad byte first and last. -/
theorem witness_BadStrings :
    23 < (ports 9 0 0 [] 24).inp.tokInLen.toNat ∧ 23 < (ports 24 0 0 [] 31).inp.tokInLen.toNat ∧
      (ports 9 0 0 [] 0).inp.tokInLen.toNat = 0 ∧
      (1 ≤ (onToken .valid0 [0x80]).inp.tokInLen.toNat ∧ SomeHighBit (onToken .valid0 [0x80])) ∧
      ((onToken .valid128 (List.replicate 22 0x30 ++ [0x80])).inp.tokInLen.toNat ≤ 23 ∧
        SomeHighBit (onToken .valid128 (List.replicate 22 0x30 ++ [0x80]))) ∧
      (¬ SomeHighBit (onToken .dec24u [0x30, 0x30, 0x30, 0x30, 0x7F]) ∧
        SomeNonSymbol (onToken .dec24u [0x30, 0x30, 0x30, 0x30, 0x7F])) ∧
      (¬ SomeHighBit (onToken .dec24u [0x2F]) ∧ SomeNonSymbol (onToken .dec24u [0x2F])) := by decide +kernel

/-- The examples under T0: a decode's bytes and a validate's. -/
theorem witness_PresentsBytes :
    (onToken .dec24u [0x6F, 0x6E, 0x6F]).mem = Memory.ofAlpha Config.t0 ∧
      PresentsBytes (onToken .dec24u [0x6F, 0x6E, 0x6F]) [0x6F#8, 0x6E#8, 0x6F#8] ∧
      PresentsBytes (onToken .valid0 [0x70]) [0x70#8] := by decide +kernel

/-- DecodeValueIsTheIntegerFormula: a short list and a full-length one, seeded with ones and with zeros. -/
theorem witness_IntegerFormula :
    [63#6, 62#6].length < (24 + 5) / 6 ∧ zValue [63#6, 62#6] = -2 ∧
      [32#6, 0#6, 0#6, 0#6].length = (24 + 5) / 6 ∧ zValue [32#6, 0#6, 0#6, 0#6] = 8388608 := by decide +kernel

/-- ResultsExtendOneDecodedValue: a value whose extensions differ (width 64). -/
theorem witness_ResultsExtend :
    (answer (onToken .dec64u [0x6F])).status = 0#3 ∧ (answer (onToken .dec64u [0x6F])).resHi = 0#64 ∧
      (answer (onToken .dec64s [0x6F])).resHi = BitVec.allOnes 64 ∧
      (answer (onToken .dec64u [0x6F])).resLo.getLsbD 63 = true ∧
      decodeValue 64 ((tokenOperand (onToken .dec64u [0x6F]).inp).map
        (charValue (onToken .dec64u [0x6F]).mem)) = BitVec.allOnes 64 := by decide +kernel

/-- CharacterTestsComeFirst: a string of each class. -/
theorem witness_CharacterTests :
    ([0x6F#8, 0x80#8, 0x20#8] ≠ [] ∧ ∃ b ∈ [0x6F#8, 0x80#8, 0x20#8], b.getLsbD 7 = true) ∧
      ((∀ b ∈ [0x30#8, 0x20#8], b.getLsbD 7 = false) ∧
        ∃ b ∈ [0x30#8, 0x20#8], valueOf (Memory.ofAlpha Config.t0) (b.extractLsb' 0 7) = none) :=
  ⟨⟨by decide, 0x80#8, by decide, by decide⟩, by decide, 0x20#8, by decide, by decide +kernel⟩

/-- LeadingTestAcceptsSplitterHeads: a string of symbols at the full length of `expectedBits = 7`. -/
theorem witness_LeadingTest :
    (7 : Nat) ≠ 0 ∧ [0x30#8, 0x6F#8] ≠ [] ∧ [0x30#8, 0x6F#8].length = (7 + 5) / 6 ∧ 7 % 6 ≠ 0 ∧
      ∀ b ∈ [0x30#8, 0x6F#8], b.getLsbD 7 = false ∧
        invFlag (readInv (Memory.ofAlpha Config.t0) (b.extractLsb' 0 7)) = false := by decide +kernel

/-- EncodeThenDecodeReturnsTheValue, EncodedTokensAreAccepted: the token an encode answers (row E32), on
the input ports of a block with the same ROMs. -/
theorem witness_RoundTrip :
    (onValue .enc32 0 0xC0A80001).mem.wf ∧
      (onToken .dec32u [0x6F, 0x30, 0x5A, 0x30, 0x30, 0x31]).mem = (onValue .enc32 0 0xC0A80001).mem ∧
      PresentsTokenOf (onToken .dec32u [0x6F, 0x30, 0x5A, 0x30, 0x30, 0x31])
        (answer (onValue .enc32 0 0xC0A80001)) ∧
      PresentsTokenOf (onToken .dec128u (0x31 :: List.replicate 21 0x6F))
        (answer (onValue .enc128 0x7FFFFFFFFFFFFFFF ones64)) :=
  ⟨witness_romsWellFormed.1, rfl, by decide +kernel⟩

/-- StatusesReportedPerOperation: every status a decode can report, at width 24, by its number in rule R57. -/
theorem witness_Statuses :
    Instr.dec24u.opClass ≠ .enc ∧ (answer (onToken .dec24u [0x30])).status = 0#3 ∧
      (answer (onToken .dec24u [])).status = 1#3 ∧
      (answer (onToken .dec24u [0x80])).status = 2#3 ∧
      (answer (onToken .dec24u [0x20])).status = 3#3 ∧
      (answer (onToken .dec24u (List.replicate 5 0x30))).status = 4#3 ∧
      (answer (ports 9 0 0 [] 24)).status = 7#3 := by decide +kernel

/-- TokensDoNotRecordTheirWidth, AcceptedTokensNeedNotBeCanonical: the tokens they list. -/
theorem witness_ListedTokens :
    SymbolToken (onToken .dec32s [0x50, 0x30, 0x30, 0x30]) [32#6, 0#6, 0#6, 0#6] ∧
      SymbolToken (onToken .valid24 [0x30, 0x30]) [0#6, 0#6] ∧
      SymbolToken (onToken .dec24u [0x6F, 0x6F]) [63#6, 63#6] ∧
      SymbolToken (onToken .valid32 [0x6F, 0x6F, 0x30, 0x30, 0x30, 0x30]) [63#6, 63#6, 0#6, 0#6, 0#6, 0#6] := by
  decide +kernel

end Sys2Proof.Tests
end

section
/-! PROOFS. The operation word, the illegal request and the result extension (30_encoding.md, rules R56, R58, R59). -/

/-! ## The operation word: its fields, and what the decoder answers -/

namespace Sys2Proof

theorem opClassOf_eq_enc_iff : ∀ op : BitVec 5, opClassOf op = .enc ↔ op.extractLsb' 3 2 = 0#2 := by decide

theorem opClassOf_eq_valid_iff : ∀ op : BitVec 5, opClassOf op = .valid ↔ op.extractLsb' 3 2 = 3#2 := by decide

/-- The eleven listed words, by their fields (rule R56). -/
theorem mem_reservedOps_iff : ∀ op : BitVec 5, op ∈ reservedOps ↔
    (op.extractLsb' 0 3 = 6#3 ∨ op.extractLsb' 0 3 = 7#3 ∨
      (op.extractLsb' 0 3 = 0#3 ∧ op.extractLsb' 3 2 ≠ 3#2)) := by decide

theorem widthOf_eq_none_iff : ∀ wsel : BitVec 3,
    widthOf wsel = none ↔ wsel = 6#3 ∨ wsel = 7#3 ∨ wsel = 0#3 := by decide

/-- A class and a `wsel` select no operation in the cases of rule R56 only. -/
theorem selectInstr_eq_none_iff (cls : OpClass) (wsel : BitVec 3) :
    selectInstr cls wsel = none ↔ wsel = 6#3 ∨ wsel = 7#3 ∨ (wsel = 0#3 ∧ cls ≠ .valid) := by
  cases cls with
  | enc | decu | decs => simp [selectInstr, widthOf_eq_none_iff]
  | valid => by_cases h : wsel = 0#3 <;> simp [selectInstr, widthOf_eq_none_iff, h]

@[simp] theorem encInstr_opClass (w : Width) : (encInstr w).opClass = .enc := by cases w <;> rfl
@[simp] theorem decuInstr_opClass (w : Width) : (decuInstr w).opClass = .decu := by cases w <;> rfl
@[simp] theorem decsInstr_opClass (w : Width) : (decsInstr w).opClass = .decs := by cases w <;> rfl
@[simp] theorem validInstr_opClass (w : Width) : (validInstr w).opClass = .valid := by cases w <;> rfl

/-- The selected operation is of the class that selected it. -/
theorem selectInstr_opClass {cls : OpClass} {wsel : BitVec 3} {i : Instr} (h : selectInstr cls wsel = some i) :
    i.opClass = cls := by
  cases cls with
  | enc | decu | decs =>
    obtain ⟨w, -, rfl⟩ := Option.map_eq_some_iff.mp h
    simp
  | valid =>
    simp only [selectInstr] at h
    split at h
    · cases h; rfl
    · obtain ⟨w, -, rfl⟩ := Option.map_eq_some_iff.mp h
      simp

/-- Everything the decoder can answer: a refusal by name on a reserved word, an operation of the word's
class on any other (rules R55, R56). -/
theorem decodeOp_cases (op : BitVec 5) :
    (op ∈ reservedOps ∧ decodeOp op = .error (.reservedOp op)) ∨
      (op ∉ reservedOps ∧ ∃ i, decodeOp op = .ok i ∧ i.opClass = opClassOf op) := by
  have hres : op ∈ reservedOps ↔ selectInstr (opClassOf op) (wselOf op) = none := by
    rw [mem_reservedOps_iff, selectInstr_eq_none_iff, ne_eq, ne_eq, opClassOf_eq_valid_iff, wselOf]
  rw [hres]
  cases h : selectInstr (opClassOf op) (wselOf op) with
  | none => exact .inl ⟨rfl, by simp only [decodeOp, h]⟩
  | some i => exact .inr ⟨by simp, i, by simp only [decodeOp, h], selectInstr_opClass h⟩

theorem decodeOp_of_reserved {op : BitVec 5} (h : op ∈ reservedOps) : decodeOp op = .error (.reservedOp op) := by
  obtain ⟨-, hd⟩ | ⟨hn, -⟩ := decodeOp_cases op
  · exact hd
  · exact absurd h hn

theorem decodeOp_of_not_reserved {op : BitVec 5} (h : op ∉ reservedOps) :
    ∃ i, decodeOp op = .ok i ∧ i.opClass = opClassOf op := by
  obtain ⟨hr, -⟩ | ⟨-, hd⟩ := decodeOp_cases op
  · exact absurd hr h
  · exact hd

end Sys2Proof

/-! ## The illegal request -/

namespace Sys2Proof.Machine

@[simp] theorem listedCode_eq_ok_iff (st : Status) : listedCode st = 0#3 ↔ st = .ok := by
  cases st <;> decide

@[simp] theorem listedCode_eq_illegalReq_iff (st : Status) : listedCode st = 7#3 ↔ st = .illegalReq := by
  cases st <;> decide

/-- The validator never classifies a string as an illegal request (rule R160). -/
theorem valid_ne_illegalReq (m : Memory) (tok : List Byte) (e : Nat) : valid m tok e ≠ .illegalReq := by
  unfold valid
  split_ifs <;> decide

/-- The shared transaction of an operation, by its class (rule R55). -/
theorem exec_cases (i : Instr) (s : State) :
    (i.opClass = .enc ∧ ∃ (w : Nat) (v : BitVec w), exec i s = encodeWith v s) ∨
      (i.opClass ≠ .enc ∧ ∃ w result, exec i s = decodeWith w result s) ∨
      (i.opClass ≠ .enc ∧ ∃ e, exec i s = validWith e s) := by
  cases i with
  | enc24 => exact .inl ⟨rfl, _, _, exec_enc24 s⟩
  | enc32 => exact .inl ⟨rfl, _, _, exec_enc32 s⟩
  | enc48 => exact .inl ⟨rfl, _, _, exec_enc48 s⟩
  | enc64 => exact .inl ⟨rfl, _, _, exec_enc64 s⟩
  | enc128 => exact .inl ⟨rfl, _, _, exec_enc128 s⟩
  | dec24u => exact .inr (.inl ⟨nofun, _, _, exec_dec24u s⟩)
  | dec32u => exact .inr (.inl ⟨nofun, _, _, exec_dec32u s⟩)
  | dec48u => exact .inr (.inl ⟨nofun, _, _, exec_dec48u s⟩)
  | dec64u => exact .inr (.inl ⟨nofun, _, _, exec_dec64u s⟩)
  | dec128u => exact .inr (.inl ⟨nofun, _, _, exec_dec128u s⟩)
  | dec24s => exact .inr (.inl ⟨nofun, _, _, exec_dec24s s⟩)
  | dec32s => exact .inr (.inl ⟨nofun, _, _, exec_dec32s s⟩)
  | dec48s => exact .inr (.inl ⟨nofun, _, _, exec_dec48s s⟩)
  | dec64s => exact .inr (.inl ⟨nofun, _, _, exec_dec64s s⟩)
  | dec128s => exact .inr (.inl ⟨nofun, _, _, exec_dec128s s⟩)
  | valid0 => exact .inr (.inr ⟨nofun, _, exec_valid0 s⟩)
  | valid24 => exact .inr (.inr ⟨nofun, _, exec_valid24 s⟩)
  | valid32 => exact .inr (.inr ⟨nofun, _, exec_valid32 s⟩)
  | valid48 => exact .inr (.inr ⟨nofun, _, exec_valid48 s⟩)
  | valid64 => exact .inr (.inr ⟨nofun, _, exec_valid64 s⟩)
  | valid128 => exact .inr (.inr ⟨nofun, _, exec_valid128 s⟩)

/-- An outcome completes the transaction of `s`, with `ILLEGAL_REQ` and no data exactly when `p` holds (rule R58). -/
def IllegalExactlyWhen (p : Prop) (s : State) (r : Host.Outcome State Fault Refusal) : Prop :=
  ∃ t, r = .next t ∧ Over s t ∧ (t.out.status = 7#3 ↔ p) ∧ (t.out.status = 7#3 → NoData t.out)

/-- An answer that is only a status is an illegal request when that status is. -/
theorem illegalExactlyWhen_of_status {p : Prop} {s : State} {st : Status} {r : Host.Outcome State Fault Refusal}
    (hr : r = .next (s.answer (statusOutputs st))) (h : st = .illegalReq ↔ p) : IllegalExactlyWhen p s r :=
  ⟨_, hr, ⟨rfl, rfl, rfl⟩, by simp [h], fun _ => statusOutputs_noData st⟩

/-- An answer beside `OK` is no illegal request. -/
theorem illegalExactlyWhen_of_ok {p : Prop} {s : State} {o : Outputs} {r : Host.Outcome State Fault Refusal}
    (hr : r = .next (s.answer o)) (ho : o.status = 0#3) (h : ¬ p) : IllegalExactlyWhen p s r :=
  ⟨_, hr, ⟨rfl, rfl, rfl⟩, by simp [ho, h], by simp [ho]⟩

/-- A validate is an illegal request exactly when its token is too long for the port (rule R58 (b)). -/
theorem validWith_illegal (e : Nat) (s : State) :
    IllegalExactlyWhen (23 < s.inp.tokInLen.toNat) s (validWith e s) := by
  obtain ⟨hlen, hr⟩ | ⟨hlen, hr⟩ := validWith_cases e s
  · exact illegalExactlyWhen_of_status hr (by simp [hlen])
  · exact illegalExactlyWhen_of_status hr (by simp [valid_ne_illegalReq, hlen])

/-- A decode is an illegal request exactly when its token is too long for the port (rule R58 (b)). -/
theorem decodeWith_illegal (w : Nat) (result : List Block → Word128) (s : State) :
    IllegalExactlyWhen (23 < s.inp.tokInLen.toNat) s (decodeWith w result s) := by
  obtain ⟨hlen, hr⟩ | ⟨hlen, -, hr⟩ | ⟨hlen, -, hr⟩ := decodeWith_cases w result s
  · exact illegalExactlyWhen_of_status hr (by simp [hlen])
  · exact illegalExactlyWhen_of_status hr (by simp [valid_ne_illegalReq, hlen])
  · exact illegalExactlyWhen_of_ok hr rfl (by omega)

/-- An operation is an illegal request exactly when it reads a token and that is too long for the port:
an encode ignores the token's length (rule R58). -/
theorem exec_illegal (i : Instr) (s : State) :
    IllegalExactlyWhen (i.opClass ≠ .enc ∧ 23 < s.inp.tokInLen.toNat) s (exec i s) := by
  obtain ⟨hc, w, v, hx⟩ | ⟨hc, w, result, hx⟩ | ⟨hc, e, hx⟩ := exec_cases i s
  · exact illegalExactlyWhen_of_ok (hx.trans (encodeWith_next v s)) rfl (by simp [hc])
  · simpa [hx, hc] using decodeWith_illegal w result s
  · simpa [hx, hc] using validWith_illegal e s

/-! ## The result extension -/

/-- Whether a decode refuses its string, and with which status, does not depend on the value it would
compute (rule R146). -/
theorem decodeWith_uniform (w : Nat) (s : State) :
    (∃ st, st ≠ .ok ∧ ∀ result, decodeWith w result s = .next (s.answer (statusOutputs st))) ∨
      ∀ result, decodeWith w result s =
        .next (s.answer (resultOutputs (result ((tokenOperand s.inp).map (charValue s.mem))))) := by
  by_cases hlen : tokenTooWide s.inp
  · exact .inl ⟨.illegalReq, nofun, fun _ => by simp only [decodeWith, if_pos hlen, raise, complete]⟩
  by_cases hv : valid s.mem (tokenOperand s.inp) w = .ok
  · exact .inr fun _ => by simp only [decodeWith, if_neg hlen, hv, complete]
  · refine .inl ⟨_, hv, fun result => ?_⟩
    obtain ⟨h, -⟩ | ⟨-, -, hr⟩ | ⟨-, h, -⟩ := decodeWith_cases w result s
    · exact absurd h hlen
    · exact hr
    · exact absurd h hv

@[simp] theorem resultOf_resultOutputs (r : Word128) : resultOf (resultOutputs r) = r :=
  BitVec.extractLsb'_append_extractLsb' (w := 64) (len := 64)

/-- A width's two decodes that run the shared transaction on one decoded value, zero-extended and
sign-extended, answer that value's extensions (rules R59, R133). -/
theorem resultsAreExtensions_of_decodeWith {w n : Nat} {decu decs : Instr} {decoded : List Block → BitVec w}
    (hu : ∀ s, exec decu s = decodeWith n (fun vals => zext128 (decoded vals)) s)
    (hs : ∀ s, exec decs s = decodeWith n (fun vals => sext128 (decoded vals)) s) :
    ResultsAreExtensions decu decs decoded := by
  intro s
  obtain ⟨st, hst, hr⟩ | hr := decodeWith_uniform n s
  · exact ⟨_, _, (hu s).trans (hr _), (hs s).trans (hr _), rfl, by simp [hst]⟩
  · exact ⟨_, _, (hu s).trans (hr _), (hs s).trans (hr _), by simp, fun _ => by simp [zext128, sext128]⟩

/-- At 128 bits both extensions are the value itself (rule R59). -/
theorem zext128_eq_sext128 (r : Word128) : zext128 r = sext128 r := by
  rw [zext128, sext128, BitVec.setWidth_eq, BitVec.signExtend_eq]

/-- The two decodes of width 128 have the same effect (rule R144). -/
theorem exec_dec128u_eq_dec128s (s : State) : exec .dec128u s = exec .dec128s s := by
  rw [exec_dec128u, exec_dec128s]
  simp only [zext128_eq_sext128]

/-- The zero extension of a 64-bit value, word by word. -/
theorem zext128_eq_append (r : Word64) : zext128 r = 0#64 ++ r :=
  BitVec.setWidth_eq_append (by decide)

/-- The sign extension of a 64-bit value, word by word. -/
theorem sext128_eq_append (r : Word64) :
    sext128 r = (if r.getLsbD 63 then BitVec.allOnes 64 else 0#64) ++ r := by
  rw [← BitVec.msb_eq_getLsbD_last r]
  exact BitVec.signExtend_eq_append_of_le (by decide)

@[simp] theorem resultOutputs_append_resHi (hi lo : Word64) : (resultOutputs (hi ++ lo)).resHi = hi :=
  BitVec.extractLsb'_append_eq_left

@[simp] theorem resultOutputs_append_resLo (hi lo : Word64) : (resultOutputs (hi ++ lo)).resLo = lo :=
  BitVec.extractLsb'_append_eq_right

/-- At width 64 the two extensions have the same low word, and differ in the high word exactly when the
value's sign bit is set (rule R59). -/
theorem dec64_outputs (s : State) :
    ∃ tu ts, exec .dec64u s = .next tu ∧ exec .dec64s s = .next ts ∧ tu.out.resLo = ts.out.resLo ∧
      (tu.out.resHi ≠ ts.out.resHi ↔ tu.out.status = 0#3 ∧ tu.out.resLo.getLsbD 63 = true) := by
  obtain ⟨st, hst, hr⟩ | hr := decodeWith_uniform 64 s
  · exact ⟨_, _, (exec_dec64u s).trans (hr _), (exec_dec64s s).trans (hr _), rfl, by simp [hst]⟩
  · refine ⟨_, _, (exec_dec64u s).trans (hr _), (exec_dec64s s).trans (hr _), ?_⟩
    simp only [State.answer_out, zext128_eq_append, sext128_eq_append, resultOutputs_append_resHi,
      resultOutputs_append_resLo, resultOutputs_status, true_and]
    cases (decodeValue 64 _).getLsbD 63 <;> simp

/-! ## The obligations -/

/-- Settles O2: the list by its fields, then the decoder and the step on a reserved word. -/
theorem reservedWordsAreTheElevenListed : Obligations.ReservedWordsAreTheElevenListed := by
  unfold Obligations.ReservedWordsAreTheElevenListed
  refine ⟨mem_reservedOps_iff, fun _ => decodeOp_of_reserved, fun op h => ?_, fun s hp hop => ?_⟩
  · obtain ⟨i, hi, -⟩ := decodeOp_of_not_reserved h
    exact ⟨i, hi⟩
  · rw [step_of_reserved hp (decodeOp_of_reserved hop)]
    exact raise_answers .illegalReq s

/-- Settles O6: a reserved word by the step alone, any other word by its operation's class. -/
theorem illegalRequestsAreExactlyThese : Obligations.IllegalRequestsAreExactlyThese := by
  unfold Obligations.IllegalRequestsAreExactlyThese
  intro s hp
  by_cases hop : s.inp.op ∈ reservedOps
  · exact illegalExactlyWhen_of_status (step_of_reserved hp (decodeOp_of_reserved hop)) (by simp [hop])
  · obtain ⟨i, hi, hc⟩ := decodeOp_of_not_reserved hop
    have hx := exec_illegal i s
    rw [hc, ne_eq, opClassOf_eq_enc_iff] at hx
    simpa [step_of_decode hp hi, hop, IllegalExactlyWhen] using hx

/-- Settles O42: one decoded value under both extensions at every width, then the two remarks of rule R59. -/
theorem resultsExtendOneDecodedValue : Obligations.ResultsExtendOneDecodedValue := by
  unfold Obligations.ResultsExtendOneDecodedValue
  refine ⟨resultsAreExtensions_of_decodeWith exec_dec24u exec_dec24s,
    resultsAreExtensions_of_decodeWith exec_dec32u exec_dec32s,
    resultsAreExtensions_of_decodeWith exec_dec48u exec_dec48s,
    resultsAreExtensions_of_decodeWith exec_dec64u exec_dec64s,
    resultsAreExtensions_of_decodeWith exec_dec128u exec_dec128s, fun s => ?_, dec64_outputs⟩
  obtain ⟨o, ho⟩ := exec_answers .dec128u s.inp s.mem
  have hu := ho s rfl rfl
  exact ⟨_, _, hu, (exec_dec128u_eq_dec128s s).symm.trans hu, rfl⟩

end Sys2Proof.Machine
end

section
/-! PROOFS. The alphabet: the value of a symbol, and the codes that have none (40_alphabet.md, rule R82). -/

namespace Sys2Proof.Machine

/-! ## The value of a code under well-formed ROMs -/

/-- Everything `valueOf` can answer: the value whose symbol the code is, or nothing for a code that is no symbol. -/
theorem valueOf_cases_of_wf {m : Memory} (h : m.wf) (c : Code) :
    (∃ v : Block, symbolOf m v = c ∧ valueOf m c = some v) ∨
      ((∀ v : Block, symbolOf m v ≠ c) ∧ valueOf m c = none) := by
  obtain ⟨v, hv, hw⟩ | ⟨hv, hw⟩ := invWordAt_cases m.fwd c
  · exact .inl ⟨v, hv, by simp [valueOf, readInv_of_wf h, hw, invFlag_symbolWord, invVal_symbolWord]⟩
  · exact .inr ⟨hv, by simp [valueOf, readInv_of_wf h, hw, invFlag_nonSymbolWord]⟩

/-- Different values have different symbols (rule R80 (d)). -/
theorem symbolOf_injective_of_wf {m : Memory} (h : m.wf) : Function.Injective (symbolOf m) :=
  fun _ _ e => fwd_injective h.1 e

theorem valueOf_eq_some_iff {m : Memory} (h : m.wf) (c : Code) (v : Block) :
    valueOf m c = some v ↔ symbolOf m v = c := by
  obtain ⟨u, hu, hc⟩ | ⟨hno, hc⟩ := valueOf_cases_of_wf h c
  · rw [hc, ← hu, (symbolOf_injective_of_wf h).eq_iff, Option.some.injEq, eq_comm]
  · simp [hc, hno v]

theorem valueOf_symbolOf {m : Memory} (h : m.wf) (v : Block) : valueOf m (symbolOf m v) = some v :=
  (valueOf_eq_some_iff h _ v).2 rfl

theorem isSome_valueOf_iff {m : Memory} (h : m.wf) (c : Code) :
    (valueOf m c).isSome ↔ ∃ v : Block, symbolOf m v = c := by
  simp only [Option.isSome_iff_exists, valueOf_eq_some_iff h]

theorem valueOf_eq_none_iff {m : Memory} (h : m.wf) (c : Code) :
    valueOf m c = none ↔ ∀ v : Block, symbolOf m v ≠ c := by
  rw [← Option.not_isSome_iff_eq_none, isSome_valueOf_iff h, not_exists]

/-! ## How many codes have a value -/

/-- The words of `FWD` are the symbols (rule R81). -/
theorem mem_fwd_toList_iff (m : Memory) (c : Code) : c ∈ m.fwd.toList ↔ ∃ v : Block, symbolOf m v = c := by
  rw [Vector.mem_toList_iff, Vector.mem_iff_getElem]
  constructor
  · rintro ⟨k, hk, hc⟩
    exact ⟨BitVec.ofNatLT k hk, hc⟩
  · rintro ⟨v, hv⟩
    exact ⟨v.toNat, v.isLt, hv⟩

/-- The code addresses with a value, in ascending order. -/
def valuedCodes (m : Memory) : List Nat :=
  (List.range 128).filter fun c => (valueOf m (BitVec.ofNat 7 c)).isSome

/-- The addresses with a value are the words of `FWD`, in another order. -/
theorem valuedCodes_perm_fwd {m : Memory} (h : m.wf) :
    (valuedCodes m).Perm (m.fwd.toList.map BitVec.toNat) := by
  have hrange : (valuedCodes m).Nodup := List.nodup_range.filter _
  have hwords : (m.fwd.toList.map BitVec.toNat).Nodup := h.1.2.map fun _ _ => BitVec.eq_of_toNat_eq
  refine (List.perm_ext_iff_of_nodup hrange hwords).2 fun n => ?_
  rw [valuedCodes, List.mem_filter, List.mem_range, isSome_valueOf_iff h, ← mem_fwd_toList_iff, List.mem_map]
  constructor
  · rintro ⟨hn, hc⟩
    exact ⟨_, hc, (BitVec.toNat_ofNat n 7).trans (Nat.mod_eq_of_lt hn)⟩
  · rintro ⟨c, hc, rfl⟩
    exact ⟨c.isLt, by rwa [BitVec.ofNat_toNat, BitVec.setWidth_eq]⟩

theorem valuedCodes_length {m : Memory} (h : m.wf) : (valuedCodes m).length = 64 := by
  rw [(valuedCodes_perm_fwd h).length_eq, List.length_map, Vector.length_toList]

/-! ## The test table T0 -/

/-- The ROMs of the test table T0 are well formed (rules R80, R85). -/
theorem t0_wf : (Memory.ofAlpha Config.t0).wf := Memory.ofAlpha_wf (by decide +kernel)

/-- Rule R85's formula for T0. -/
theorem symbolOf_t0 (v : Block) : symbolOf (Memory.ofAlpha Config.t0) v = BitVec.ofNat 7 (0x30 + v.toNat) := by
  simp [symbolOf, readFwd, Memory.ofAlpha, Config.t0]

/-- No symbol of T0 is below `0x30` (rule R85). -/
theorem symbolOf_t0_ge (v : Block) : 0x30 ≤ (symbolOf (Memory.ofAlpha Config.t0) v).toNat := by
  have hv := v.isLt
  rw [symbolOf_t0, BitVec.toNat_ofNat]
  omega

/-! ## The obligation -/

/-- Settles O18: the laws from what `valueOf` can answer, the count from the words of `FWD`, the example
from T0's formula. -/
theorem valueOfInvertsSymbolOf : Obligations.ValueOfInvertsSymbolOf := by
  unfold Obligations.ValueOfInvertsSymbolOf
  refine ⟨fun m h => ⟨valueOf_symbolOf h, valueOf_eq_some_iff h, valueOf_eq_none_iff h, valuedCodes_length h⟩,
    (valueOf_eq_some_iff t0_wf _ _).2 (symbolOf_t0 63#6), (valueOf_eq_none_iff t0_wf _).2 fun v hv => ?_⟩
  have hge := symbolOf_t0_ge v
  rw [hv] at hge
  exact absurd hge (by decide)

end Sys2Proof.Machine
end

section
/-! PROOFS. The trimmer: where the scan stops (42_trimmer.md, rule R100). -/

namespace Sys2Proof.Machine

/-! ## Droppable positions -/

/-- The block test in the words of rule R100. -/
theorem droppable_iff (b next : Block) :
    droppable b next = true ↔ if next = 63#6 then b = 63#6 else b = 0#6 := by
  unfold droppable Config.ones
  split <;> simp

@[simp] theorem droppableAt_cons_cons_zero (b next : Block) (rest : List Block) :
    DroppableAt (b :: next :: rest) 0 ↔ droppable b next = true := by
  simp [DroppableAt, droppable_iff]

@[simp] theorem droppableAt_cons_succ (b : Block) (bs : List Block) (i : Nat) :
    DroppableAt (b :: bs) (i + 1) ↔ DroppableAt bs i := by
  simp [DroppableAt]

/-! ## Where the scan stops -/

/-- The scan passes droppable positions only. -/
theorem droppableAt_of_lt_trim : ∀ {b : List Block} {i : Nat}, i < trim b → DroppableAt b i
  | b :: next :: rest, i, hi => by
    cases h : droppable b next with
    | false => simp [trim_cons_of_not_droppable h] at hi
    | true =>
      rw [trim_cons_of_droppable h] at hi
      cases i with
      | zero => simpa using h
      | succ j => simpa using droppableAt_of_lt_trim (Nat.lt_of_succ_lt_succ hi)

/-- The scan stops before the last position only where the position is not droppable. -/
theorem not_droppableAt_trim : ∀ {b : List Block}, trim b < b.length - 1 → ¬ DroppableAt b (trim b)
  | b :: next :: rest, hlt => by
    cases h : droppable b next with
    | false => simp [trim_cons_of_not_droppable h, h]
    | true =>
      rw [trim_cons_of_droppable h] at hlt ⊢
      have hrest : trim (next :: rest) < (next :: rest).length - 1 := by simpa using Nat.lt_pred_of_succ_lt hlt
      simpa using not_droppableAt_trim hrest

/-! ## The obligation -/

/-- Settles O23: the bound, the passed positions and the stop, each by the scan's recursion; the survivors
are `kept` by its definition, and the example runs. -/
theorem trimIndexIsTheFirstUndroppable : Obligations.TrimIndexIsTheFirstUndroppable := by
  unfold Obligations.TrimIndexIsTheFirstUndroppable
  refine ⟨fun b hb => ⟨?_, fun _ => droppableAt_of_lt_trim, not_droppableAt_trim, rfl⟩, by decide⟩
  exact Nat.le_sub_one_of_lt (trim_lt_length hb)

end Sys2Proof.Machine
end

section
/-! PROOFS. The encoders: the blocks of every operand, and the token an encode answers (43_encoder.md, rules R112 to R117). -/

namespace Sys2Proof.Machine

/-! ## The blocks of a split value, as slices of the value -/

theorem split_eq_map {w n : Nat} (v : BitVec w) (hn : blocksOf w = n) :
    split v = (List.range n).map fun i => (extendToBlocks v).extractLsb' (6 * (n - 1 - i)) 6 := by
  subst hn
  rfl

/-- A block that ends within the value is a slice of the value itself (rule R90). -/
theorem extendToBlocks_slice {w k : Nat} (v : BitVec w) (h : k + 6 ≤ w) :
    (extendToBlocks v).extractLsb' k 6 = v.extractLsb' k 6 := by
  ext j hj
  have hw := le_six_mul_blocksOf w
  have hlt : k + j < w := by omega
  have hlt' : k + j < 6 * blocksOf w := by omega
  simp [extendToBlocks, BitVec.getElem_signExtend, hlt, hlt']

/-- The block in which the value ends: `c` copies of the sign above the value's top `r` bits (rules R90, R91). -/
theorem extendToBlocks_top {w k c r : Nat} (v : BitVec w) (hc : c + r = 6) (hk : k + r = w)
    (hn : k + 6 = 6 * blocksOf w) :
    (extendToBlocks v).extractLsb' k 6 = (BitVec.fill c v.msb ++ v.extractLsb' k r).cast hc := by
  ext j hj
  have hlt : k + j < 6 * blocksOf w := by omega
  by_cases hjr : j < r
  · have hjw : k + j < w := by omega
    simp [extendToBlocks, BitVec.getElem_signExtend, BitVec.getElem_append, hlt, hjr, hjw]
  · have hjw : ¬ k + j < w := by omega
    simp [extendToBlocks, BitVec.getElem_signExtend, BitVec.getElem_append, hlt, hjr, hjw]

/-- A value of whole blocks has no sign copies (rule R91). -/
theorem split_of_whole_blocks {w n : Nat} (v : BitVec w) (hw : w = 6 * n) :
    split v = (List.range n).map fun i => v.extractLsb' (6 * (n - 1 - i)) 6 := by
  rw [split_eq_map v (show blocksOf w = n by unfold blocksOf; omega)]
  refine List.map_congr_left fun i hi => extendToBlocks_slice v ?_
  have := List.mem_range.mp hi
  omega

/-- A value that is `r` bits more than whole blocks: the first block has `c` copies of the sign above those
bits, the others are slices (rule R91). -/
theorem split_of_sign_copies {w n c r : Nat} (v : BitVec w) (hc : c + r = 6) (hr : 0 < r) (hw : w = 6 * n + r) :
    split v = (BitVec.fill c v.msb ++ v.extractLsb' (6 * n) r).cast hc ::
      (List.range n).map fun k => v.extractLsb' (6 * (n - 1 - k)) 6 := by
  have hn : blocksOf w = n + 1 := by unfold blocksOf; omega
  rw [split_eq_map v hn, List.range_succ_eq_map, List.map_cons, List.map_map]
  congr 1
  · exact extendToBlocks_top v hc hw.symm (by omega)
  · refine List.map_congr_left fun k hk => ?_
    have := List.mem_range.mp hk
    rw [Function.comp_apply, show n + 1 - 1 - k.succ = n - 1 - k by omega]
    exact extendToBlocks_slice v (by omega)

/-! ## The blocks of each encoder's operand, as slices of the operand words -/

/-- A slice of the operand is a slice of the low word (rule R53). -/
theorem intOperand_slice {w k n : Nat} (inp : Inputs) (h : k + n ≤ w) :
    (intOperand w inp).extractLsb' k n = inp.valLo.extractLsb' k n :=
  BitVec.extractLsb'_extractLsb'_of_le h

theorem intOperand_msb {w : Nat} (inp : Inputs) (h : 0 < w) : (intOperand w inp).msb = inp.valLo.getLsbD (w - 1) := by
  simp [intOperand, BitVec.msb_eq_getLsbD_last, h]

/-- Whole blocks of a narrow operand are slices of the low word. -/
theorem map_intOperand_slices {w n : Nat} (inp : Inputs) (h : 6 * n ≤ w) :
    ((List.range n).map fun i => (intOperand w inp).extractLsb' (6 * (n - 1 - i)) 6) =
      (List.range n).map fun i => inp.valLo.extractLsb' (6 * (n - 1 - i)) 6 := by
  refine List.map_congr_left fun i hi => intOperand_slice inp ?_
  have := List.mem_range.mp hi
  omega

/-- Rule R113's blocks. -/
theorem split_intOperand_24 (inp : Inputs) : split (intOperand 24 inp) =
    [inp.valLo.extractLsb' 18 6, inp.valLo.extractLsb' 12 6, inp.valLo.extractLsb' 6 6,
      inp.valLo.extractLsb' 0 6] := by
  rw [split_of_whole_blocks (n := 4) _ rfl, map_intOperand_slices inp (by decide)]
  rfl

/-- Rule R114's blocks. -/
theorem split_intOperand_32 (inp : Inputs) : split (intOperand 32 inp) =
    [BitVec.fill 4 (inp.valLo.getLsbD 31) ++ inp.valLo.extractLsb' 30 2, inp.valLo.extractLsb' 24 6,
      inp.valLo.extractLsb' 18 6, inp.valLo.extractLsb' 12 6, inp.valLo.extractLsb' 6 6,
      inp.valLo.extractLsb' 0 6] := by
  rw [split_of_sign_copies (n := 5) (c := 4) (r := 2) _ rfl (by decide) rfl,
    map_intOperand_slices inp (by decide), intOperand_slice inp (by decide), intOperand_msb inp (by decide)]
  rfl

/-- Rule R115's blocks. -/
theorem split_intOperand_48 (inp : Inputs) : split (intOperand 48 inp) =
    (List.range 8).map fun i => inp.valLo.extractLsb' (42 - 6 * i) 6 := by
  rw [split_of_whole_blocks (n := 8) _ rfl, map_intOperand_slices inp (by decide)]
  rfl

/-- Rule R116's blocks; at width 64 the operand is the whole low word. -/
theorem split_valLo (inp : Inputs) : split inp.valLo =
    (BitVec.fill 2 (inp.valLo.getLsbD 63) ++ inp.valLo.extractLsb' 60 4) ::
      (List.range 10).map fun k => inp.valLo.extractLsb' (54 - 6 * k) 6 := by
  rw [split_of_sign_copies (n := 10) (c := 2) (r := 4) _ rfl (by decide) rfl, BitVec.msb_eq_getLsbD_last]
  rfl

theorem exec_enc64_valLo (s : State) : exec .enc64 s = encodeWith s.inp.valLo s := by
  rw [exec_enc64, intOperand, BitVec.extractLsb'_eq_self]

/-- The block that straddles the words: the high word's low bits above the low word's top bits (rule R92). -/
theorem intOperand128_straddle (inp : Inputs) :
    (intOperand128 inp).extractLsb' 60 6 = inp.valHi.extractLsb' 0 2 ++ inp.valLo.extractLsb' 60 4 := by
  rw [intOperand128, BitVec.extractLsb'_append_eq_ite]
  rfl

theorem intOperand128_high_slice {k n : Nat} (inp : Inputs) (h : 64 ≤ k) :
    (intOperand128 inp).extractLsb' k n = inp.valHi.extractLsb' (k - 64) n :=
  BitVec.extractLsb'_append_eq_of_le h

theorem intOperand128_low_slice {k n : Nat} (inp : Inputs) (h : k + n ≤ 64) :
    (intOperand128 inp).extractLsb' k n = inp.valLo.extractLsb' k n :=
  BitVec.extractLsb'_append_eq_of_add_le h

theorem intOperand128_msb (inp : Inputs) : (intOperand128 inp).msb = inp.valHi.getLsbD 63 := by
  rw [← BitVec.msb_eq_getLsbD_last inp.valHi]
  exact BitVec.msb_append

/-- Rule R117's blocks, ten slices of each word around the straddling one. -/
theorem split_intOperand128 (inp : Inputs) : split (intOperand128 inp) =
    ((BitVec.fill 4 (inp.valHi.getLsbD 63) ++ inp.valHi.extractLsb' 62 2) ::
        (List.range 10).map fun k => inp.valHi.extractLsb' (56 - 6 * k) 6) ++
      ((inp.valHi.extractLsb' 0 2 ++ inp.valLo.extractLsb' 60 4) ::
        (List.range 10).map fun k => inp.valLo.extractLsb' (54 - 6 * k) 6) := by
  rw [split_of_sign_copies (n := 10 + (10 + 1)) (c := 4) (r := 2) _ rfl (by decide) rfl, List.cons_append,
    List.range_add, List.map_append, List.range_succ_eq_map (n := 10), List.map_map, List.map_cons, List.map_map,
    intOperand128_msb]
  congr 2
  · rw [intOperand128_high_slice inp (by decide)]
    rfl
  · refine List.map_congr_left fun k hk => ?_
    have := List.mem_range.mp hk
    rw [intOperand128_high_slice inp (by omega)]
    congr 1
    omega
  · congr 1
    · exact intOperand128_straddle inp
    · refine List.map_congr_left fun k hk => ?_
      have := List.mem_range.mp hk
      simp only [Function.comp_apply]
      rw [intOperand128_low_slice inp (by omega)]
      congr 1
      omega

/-! ## The token an encode answers -/

theorem encodeBlocks_length_le {w : Nat} (v : BitVec w) : (encodeBlocks v).length ≤ blocksOf w := by
  rw [encodeBlocks, kept_length, split_length]
  exact Nat.sub_le ..

/-- A token that fits the port is the symbols of its blocks, from lane 0 on (rule R112). -/
theorem tokenOutputs_carriesBlocks (m : Memory) {vals : List Block} (h : vals.length ≤ 22) :
    CarriesBlocks m (tokenOutputs (vals.map (symbolOf m))) vals := by
  refine ⟨rfl, ?_, fun j hj => ?_, rfl, rfl⟩
  · rw [tokenOutputs_tokOutLen, List.length_map, BitVec.toNat_ofNat, Nat.mod_eq_of_lt (by omega)]
  · rw [tokenOutputs_lane _ hj, List.getElem?_map]
    cases vals[j]? <;> rfl

/-- Lane by lane, the bytes of a token of blocks. -/
theorem carriesBytes_of_carriesBlocks {m : Memory} {o : Outputs} {vals : List Block} (h : vals.length ≤ 22)
    (ho : CarriesBlocks m o vals) : CarriesBytes o (vals.map fun v => laneOf (symbolOf m v)) := by
  obtain ⟨-, hlen, hlane, -, -⟩ := ho
  refine ⟨by rw [hlen, List.length_map], fun j hj => ?_⟩
  have hj' : j < vals.length := by simpa using hj
  rw [hlane j (by omega), List.getElem?_map, List.getElem?_eq_getElem hj']
  rfl

section
variable {enc : Instr} {w : Nat} {operand : Inputs → BitVec w}

/-- An operation that is the shared encode of its operand answers the operand's surviving blocks (rule R112). -/
theorem answersBlocks_of_encodeWith (hx : ∀ s, exec enc s = encodeWith (operand s.inp) s) (hw : blocksOf w ≤ 22)
    (s : State) : AnswersBlocks enc s (encodeBlocks (operand s.inp)) :=
  ⟨_, (hx s).trans (encodeWith_next _ s), ⟨rfl, rfl, rfl⟩,
    tokenOutputs_carriesBlocks s.mem ((encodeBlocks_length_le _).trans hw)⟩

/-- Such an operation answers the blocks computed for each listed operand. -/
theorem encodesListed_of_encodeWith (hx : ∀ s, exec enc s = encodeWith (operand s.inp) s) (hw : blocksOf w ≤ 22)
    {rows : List (BitVec w × List Block)} (hrows : ∀ row ∈ rows, encodeBlocks row.1 = row.2) :
    EncodesListed enc operand rows := by
  intro row hrow s hs
  rw [← hrows row hrow, ← hs]
  exact answersBlocks_of_encodeWith hx hw s

/-- Such an operation answers, under T0, the bytes of the blocks computed for the operand. -/
theorem encodesUnderT0_of_encodeWith (hx : ∀ s, exec enc s = encodeWith (operand s.inp) s) (hw : blocksOf w ≤ 22)
    {v : BitVec w} {bytes : List Byte}
    (hbytes : (encodeBlocks v).map (fun b => laneOf (symbolOf (Memory.ofAlpha Config.t0) b)) = bytes) :
    EncodesUnderT0 enc operand v bytes := by
  intro s hm hv
  obtain ⟨t, ht, -, hc⟩ := answersBlocks_of_encodeWith hx hw s
  rw [hm, hv] at hc
  refine ⟨t, ht, hc.1, ?_⟩
  rw [← hbytes]
  exact carriesBytes_of_carriesBlocks ((encodeBlocks_length_le v).trans hw) hc

/-- What the spec says of each encode: every state from the slices its operand splits into, the listed
operands and the example from the blocks computed for them (rules R113 to R117). -/
theorem encodes_of_encodeWith (hx : ∀ s, exec enc s = encodeWith (operand s.inp) s) (hw : blocksOf w ≤ 22)
    {slices : State → List Block} (hsplit : ∀ s, split (operand s.inp) = slices s)
    {rows : List (BitVec w × List Block)} (hrows : ∀ row ∈ rows, encodeBlocks row.1 = row.2)
    {v : BitVec w} {bytes : List Byte}
    (hbytes : (encodeBlocks v).map (fun b => laneOf (symbolOf (Memory.ofAlpha Config.t0) b)) = bytes) :
    (∀ s, AnswersBlocks enc s (kept (slices s))) ∧ EncodesListed enc operand rows ∧
      EncodesUnderT0 enc operand v bytes := by
  refine ⟨fun s => ?_, encodesListed_of_encodeWith hx hw hrows, encodesUnderT0_of_encodeWith hx hw hbytes⟩
  rw [← hsplit s]
  exact answersBlocks_of_encodeWith hx hw s

end

/-! ## The obligations -/

/-- Settles O30: the operand splits into four slices; the rows and the example run. -/
theorem encTwentyFourAnswersItsTrimmedBlocks : Obligations.EncTwentyFourAnswersItsTrimmedBlocks := by
  unfold Obligations.EncTwentyFourAnswersItsTrimmedBlocks
  exact ⟨rfl, encodes_of_encodeWith exec_enc24 (by decide) (fun s => split_intOperand_24 s.inp)
    (by decide +kernel) (by decide +kernel)⟩

/-- Settles O31: five slices below a block with four copies of the sign. -/
theorem encThirtyTwoAnswersItsTrimmedBlocks : Obligations.EncThirtyTwoAnswersItsTrimmedBlocks := by
  unfold Obligations.EncThirtyTwoAnswersItsTrimmedBlocks
  exact ⟨rfl, encodes_of_encodeWith exec_enc32 (by decide) (fun s => split_intOperand_32 s.inp)
    (by decide +kernel) (by decide +kernel)⟩

/-- Settles O32: the operand splits into eight slices. -/
theorem encFortyEightAnswersItsTrimmedBlocks : Obligations.EncFortyEightAnswersItsTrimmedBlocks := by
  unfold Obligations.EncFortyEightAnswersItsTrimmedBlocks
  exact ⟨rfl, encodes_of_encodeWith exec_enc48 (by decide) (fun s => split_intOperand_48 s.inp)
    (by decide +kernel) (by decide +kernel)⟩

/-- Settles O33: ten slices of the whole low word below a block with two copies of its sign. -/
theorem encSixtyFourAnswersItsTrimmedBlocks : Obligations.EncSixtyFourAnswersItsTrimmedBlocks := by
  unfold Obligations.EncSixtyFourAnswersItsTrimmedBlocks
  exact ⟨rfl, encodes_of_encodeWith exec_enc64_valLo (by decide) (fun s => split_valLo s.inp)
    (by decide +kernel) (by decide +kernel)⟩

/-- Settles O34: both operand words, with a block that straddles them. -/
theorem encOneTwentyEightAnswersItsTrimmedBlocks : Obligations.EncOneTwentyEightAnswersItsTrimmedBlocks := by
  unfold Obligations.EncOneTwentyEightAnswersItsTrimmedBlocks
  exact ⟨rfl, encodes_of_encodeWith exec_enc128 (by decide) (fun s => split_intOperand128 s.inp)
    (by decide +kernel) (by decide +kernel)⟩

end Sys2Proof.Machine
end

section
/-! PROOFS. The accumulator of a decode: the pair of words, and what it makes of a split and trimmed value (44_decoder.md, rules R130 to R132; 42_trimmer.md, rule R102). -/

namespace Sys2Proof.Machine

/-! ## One character into the accumulator -/

/-- The low six bits after a step are the character's value, the others the accumulator's, six places up (rule R131). -/
theorem getLsbD_accStep {w : Nat} (acc : BitVec w) (v : Block) {j : Nat} (hj : j < w) :
    (accStep acc v).getLsbD j = if j < 6 then v.getLsbD j else acc.getLsbD (j - 6) := by
  rw [accStep, BitVec.getLsbD_or, BitVec.getLsbD_shiftLeft, BitVec.getLsbD_setWidth]
  by_cases h : j < 6
  · simp [hj, h]
  · rw [BitVec.getLsbD_of_ge v j (by omega)]
    simp only [hj, h]
    simp

theorem accStep_zero (w : Nat) : accStep (0#w) 0#6 = 0#w := by
  simp [accStep]

theorem accStep_allOnes (w : Nat) : accStep (BitVec.allOnes w) 63#6 = BitVec.allOnes w := by
  refine BitVec.eq_of_getLsbD_eq fun j hj => ?_
  rw [getLsbD_accStep _ _ hj, show (63#6 : Block) = BitVec.allOnes 6 from rfl]
  simp only [BitVec.getLsbD_allOnes, hj, show j - 6 < w by omega, decide_true]
  simp

/-! ## The pair of words -/

/-- The pair as one 128-bit value, `{high, low}` (rule R132). -/
def Pair.toWord (p : Pair) : Word128 := p.high ++ p.low

theorem decodeValue128_eq (vals : List Block) :
    decodeValue128 vals = (vals.foldl pairStep (pairSeed vals)).toWord := rfl

/-- Each word takes one step of its own; the value that enters `high` is the six bits that leave `low` (rule R132). -/
theorem pairStep_eq (p : Pair) (v : Block) :
    pairStep p v = ⟨accStep p.high (p.low.extractLsb' 58 6), accStep p.low v⟩ := rfl

/-- A step of the pair is a step of the 128-bit accumulator (rule R132). -/
theorem pairStep_toWord (p : Pair) (v : Block) : (pairStep p v).toWord = accStep p.toWord v := by
  refine BitVec.eq_of_getLsbD_eq fun j hj => ?_
  rw [getLsbD_accStep _ _ hj, pairStep_eq, Pair.toWord, Pair.toWord, BitVec.getLsbD_append, BitVec.getLsbD_append]
  by_cases hlow : j < 64
  · rw [if_pos hlow, getLsbD_accStep _ _ hlow, if_pos (show j - 6 < 64 by omega)]
  · rw [if_neg hlow, getLsbD_accStep _ _ (by omega), if_neg (show ¬ j < 6 by omega)]
    by_cases hin : j - 64 < 6
    · rw [if_pos hin, if_pos (by omega), BitVec.getLsbD_extractLsb', decide_eq_true hin, Bool.true_and,
        show 58 + (j - 64) = j - 6 by omega]
    · rw [if_neg hin, if_neg (by omega), Nat.sub_right_comm]

theorem pairSeed_toWord (vals : List Block) : (pairSeed vals).toWord = seed 128 vals := by
  rw [Pair.toWord, pairSeed, seed, seed]
  split
  · decide +kernel
  · exact BitVec.zero_append_zero

theorem decodeValue128_eq_decodeValue (vals : List Block) : decodeValue128 vals = decodeValue 128 vals := by
  rw [decodeValue128_eq, decodeValue, ← pairSeed_toWord]
  exact (List.foldl_hom Pair.toWord fun p v => (pairStep_toWord p v).symm).symm

/-! ## Trimmed blocks do not change the value -/

theorem seed_cons (w : Nat) (b : Block) (bs : List Block) :
    seed w (b :: bs) = if b = 63#6 then BitVec.allOnes w else 0#w := by
  simp [seed, Config.ones]

/-- A droppable block seeds the accumulator as the block after it does, and shifts no new bit into that seed
(rule R102 (c)). -/
theorem decodeValue_cons_of_droppable {w : Nat} {b next : Block} {rest : List Block}
    (h : droppable b next = true) : decodeValue w (b :: next :: rest) = decodeValue w (next :: rest) := by
  rw [droppable_iff] at h
  have hseed : accStep (seed w (b :: next :: rest)) b = seed w (next :: rest) := by
    rw [seed_cons, seed_cons]
    by_cases hn : next = 63#6
    · rw [if_pos hn] at h
      rw [if_pos h, if_pos hn, h, accStep_allOnes]
    · rw [if_neg hn] at h
      rw [if_neg (by rw [h]; decide), if_neg hn, h, accStep_zero]
  rw [decodeValue, List.foldl_cons, hseed, decodeValue]

/-- The surviving blocks decode to the value of the whole list, at every width (rule R102 (c)). -/
theorem decodeValue_kept (w : Nat) : ∀ b : List Block, decodeValue w (kept b) = decodeValue w b
  | [] => rfl
  | [_] => rfl
  | b :: next :: rest => by
    cases h : droppable b next with
    | false => rw [kept, trim_cons_of_not_droppable h, List.drop_zero]
    | true =>
      rw [kept, trim_cons_of_droppable h, List.drop_succ_cons, decodeValue_cons_of_droppable h]
      exact decodeValue_kept w (next :: rest)

/-! ## The blocks of a value shift it back in -/

/-- After the first `i` of `n` slices the accumulator holds their `6 i` bits, and what it held before above them. -/
theorem getLsbD_foldl_slices {w m n : Nat} (x : BitVec m) (acc : BitVec w) {i : Nat} (hi : i ≤ n) :
    ∀ {j : Nat}, j < w →
      (((List.range i).map fun k => x.extractLsb' (6 * (n - 1 - k)) 6).foldl accStep acc).getLsbD j =
        if j < 6 * i then x.getLsbD (6 * (n - i) + j) else acc.getLsbD (j - 6 * i) := by
  induction i with
  | zero => intro j _; rfl
  | succ i ih =>
    intro j hj
    rw [List.range_succ, List.map_append, List.foldl_append, List.map_singleton, List.foldl_cons, List.foldl_nil,
      getLsbD_accStep _ _ hj]
    by_cases h6 : j < 6
    · rw [if_pos h6, if_pos (by omega), BitVec.getLsbD_extractLsb', decide_eq_true h6, Bool.true_and,
        show n - 1 - i = n - (i + 1) by omega]
    · rw [if_neg h6, ih (by omega) (by omega), show 6 * (n - i) + (j - 6) = 6 * (n - (i + 1)) + j by omega,
        show j - 6 - 6 * i = j - 6 * (i + 1) by omega]
      simp only [show j - 6 < 6 * i ↔ j < 6 * (i + 1) by omega]

/-- The blocks of a value decode to it: they cover the accumulator, so the seed is shifted out (rule R102 (c)). -/
theorem decodeValue_split {w : Nat} (v : BitVec w) : decodeValue w (split v) = v := by
  refine BitVec.eq_of_getLsbD_eq fun j hj => ?_
  have hw := le_six_mul_blocksOf w
  rw [decodeValue, split, getLsbD_foldl_slices _ _ (le_refl _) hj, if_pos (by omega), Nat.sub_self]
  rw [Nat.mul_zero, Nat.zero_add, extendToBlocks, BitVec.getLsbD_signExtend, if_pos hj,
    decide_eq_true (by omega), Bool.true_and]

theorem decodeValue_encodeBlocks {w : Nat} (v : BitVec w) : decodeValue w (encodeBlocks v) = v := by
  rw [encodeBlocks, decodeValue_kept, decodeValue_split]

/-! ## The obligation -/

/-- Settles O41: the step by its definition and as one 128-bit shift, then the fold from the common seed. -/
theorem pairAccumulatorIsThe128BitShift : Obligations.PairAccumulatorIsThe128BitShift := by
  unfold Obligations.PairAccumulatorIsThe128BitShift
  exact ⟨fun p v => ⟨rfl, rfl, pairStep_toWord p v⟩, decodeValue128_eq_decodeValue⟩

end Sys2Proof.Machine
end

section
/-! PROOFS. The decodes: what each answers on every string (44_decoder.md, rules R130 to R146). -/

namespace Sys2Proof.Machine

/-! ## The two forms of a decode's answer -/

theorem answersStatus_of_next {i : Instr} {s : State} {st : Status}
    (h : exec i s = .next (s.answer (statusOutputs st))) : AnswersStatus i s st :=
  ⟨_, h, ⟨rfl, rfl, rfl⟩, code_eq_listedCode st, statusOutputs_noData st⟩

theorem answersResult_of_next {i : Instr} {s : State} {r : Word128}
    (h : exec i s = .next (s.answer (resultOutputs r))) : AnswersResult i s r :=
  ⟨_, h, ⟨rfl, rfl, rfl⟩, rfl, resultOutputs_noToken r, rfl, rfl⟩

theorem decodeWith_of_tooWide {s : State} (h : 23 < s.inp.tokInLen.toNat) (w : Nat) (result : List Block → Word128) :
    decodeWith w result s = .next (s.answer (statusOutputs .illegalReq)) := by
  rw [decodeWith, if_pos ((tokenTooWide_iff _).mpr h), raise, complete]

/-- A decode refuses the strings that its validator refuses, with the same class (rule R146). -/
theorem decodeWith_of_refused {w : Nat} {s : State} {st : Status} (h : s.inp.tokInLen.toNat ≤ 23)
    (hv : valid s.mem (tokenOperand s.inp) w = st) (hst : st ≠ .ok) (result : List Block → Word128) :
    decodeWith w result s = .next (s.answer (statusOutputs st)) := by
  subst hv
  obtain ⟨hlen, -⟩ | ⟨-, -, hr⟩ | ⟨-, hok, -⟩ := decodeWith_cases w result s
  · omega
  · exact hr
  · exact absurd hok hst

/-- A decode answers the result of the characters' values where its validator answers `OK` (rule R146). -/
theorem decodeWith_of_accepted {w : Nat} {s : State} (h : s.inp.tokInLen.toNat ≤ 23)
    (hv : valid s.mem (tokenOperand s.inp) w = .ok) (result : List Block → Word128) :
    decodeWith w result s =
      .next (s.answer (resultOutputs (result ((tokenOperand s.inp).map (charValue s.mem))))) := by
  obtain ⟨hlen, -⟩ | ⟨-, hok, -⟩ | ⟨-, -, hr⟩ := decodeWith_cases w result s
  · omega
  · exact absurd hv hok
  · exact hr

/-! ## Which tokens of symbols fit a width -/

/-- The list holds the values that a full-length token of a width may begin with: all of them when the width is
whole blocks, else those that pass the leading-character test (rule R165). -/
abbrev LeadsOf (w : Nat) (leads : List Block) : Prop :=
  ∀ f : Block, f ∈ leads ↔ restOf w = 0 ∨ leadingOk (restOf w) f = true

theorem not_tooLongFor_of_fitsWidth {n : Nat} {leads vals : List Block} (h : FitsWidth n leads vals) :
    ¬ TooLongFor n leads vals := by
  obtain ⟨-, hle, hlead⟩ := h
  rintro (hlt | ⟨hfull, hno⟩)
  · omega
  · obtain ⟨f, hf, hhead⟩ := hlead hfull
    exact hno f hf hhead

/-- The model's length test is rule R164's on the values of a token of symbols. -/
theorem lengthBad_iff_tooLongFor {w : Nat} {leads : List Block} (hl : LeadsOf w leads) {s : State}
    {vals : List Block} (h : SymbolToken s vals) (h1 : 1 ≤ vals.length) :
    lengthBad s.mem (tokenOperand s.inp) w = true ↔ TooLongFor (blocksOf w) leads vals := by
  obtain ⟨f, rest, rfl⟩ := List.exists_cons_of_length_pos h1
  have hlead : (∀ g ∈ leads, some f ≠ some g) ↔ restOf w ≠ 0 ∧ leadingOk (restOf w) f = false := by
    rw [← Bool.not_eq_true, ne_eq, ← not_or, ← hl f]
    exact ⟨fun hno hf => hno f hf rfl, fun hno g hg e => hno (by cases e; exact hg)⟩
  rw [lengthBad_of_symbols h h1, TooLongFor, List.head?_cons, hlead]
  simp

/-- A token of symbols that fits the width is `OK` (rules R164, R165). -/
theorem valid_of_fitsWidth {w : Nat} {leads : List Block} (hl : LeadsOf w leads) {s : State} {vals : List Block}
    (h : SymbolToken s vals) (hfit : FitsWidth (blocksOf w) leads vals) :
    valid s.mem (tokenOperand s.inp) w = .ok := by
  have hgood : ¬ lengthBad s.mem (tokenOperand s.inp) w = true := by
    rw [lengthBad_iff_tooLongFor hl h hfit.1]
    exact not_tooLongFor_of_fitsWidth hfit
  rw [valid_of_symbols h hfit.1, if_neg (by simp [hgood])]

/-- A token of symbols that is too long for the width, or led by a value no operand of the width begins with,
is `TOO_LONG` (rules R164, R165). -/
theorem valid_of_tooLongFor {w : Nat} (hw : 0 < w) {leads : List Block} (hl : LeadsOf w leads) {s : State}
    {vals : List Block} (h : SymbolToken s vals) (hlong : TooLongFor (blocksOf w) leads vals) :
    valid s.mem (tokenOperand s.inp) w = .tooLong := by
  have h1 : 1 ≤ vals.length := by
    have hblocks : 1 ≤ blocksOf w := by unfold blocksOf; omega
    obtain hlt | ⟨hfull, -⟩ := hlong <;> omega
  have hbad := (lengthBad_iff_tooLongFor hl h h1).mpr hlong
  rw [valid_of_symbols h h1, if_pos (by simp [hbad]; omega)]

/-! ## An operation that is the shared decode of a width -/

section
variable {i : Instr} {w : Nat} {leads : List Block} {result : List Block → Word128}

theorem refusesBadStrings_of_decodeWith (hx : ∀ s, exec i s = decodeWith w result s) : RefusesBadStrings i := by
  refine ⟨fun s h => ?_, fun s h => ?_, fun s h1 h23 hb => ?_, fun s h1 h23 hb hn => ?_⟩
  · exact answersStatus_of_next ((hx s).trans (decodeWith_of_tooWide h w result))
  · exact answersStatus_of_next
      ((hx s).trans (decodeWith_of_refused (by omega) (valid_of_no_characters h w) nofun result))
  · exact answersStatus_of_next
      ((hx s).trans (decodeWith_of_refused h23 (valid_of_highBit h1 h23 hb w) nofun result))
  · exact answersStatus_of_next
      ((hx s).trans (decodeWith_of_refused h23 (valid_of_nonSymbol h1 h23 hb hn w) nofun result))

theorem refusesUnfitTokens_of_decodeWith (hx : ∀ s, exec i s = decodeWith w result s) (hw : 0 < w)
    (hl : LeadsOf w leads) : RefusesUnfitTokens i (blocksOf w) leads := by
  refine ⟨fun s vals h hlong => answersStatus_of_next ((hx s).trans ?_), refusesBadStrings_of_decodeWith hx⟩
  exact decodeWith_of_refused (h.1.trans_le h.2.1) (valid_of_tooLongFor hw hl h hlong) nofun result

/-- On a token that fits, the result of the token's own values (rule R146). -/
theorem answersResult_of_decodeWith (hx : ∀ s, exec i s = decodeWith w result s) (hl : LeadsOf w leads)
    {s : State} {vals : List Block} (h : SymbolToken s vals) (hfit : FitsWidth (blocksOf w) leads vals) :
    AnswersResult i s (result vals) := by
  obtain ⟨-, -, hvals⟩ := symbolToken_characters h
  have hr := decodeWith_of_accepted (h.1.trans_le h.2.1) (valid_of_fitsWidth hl h hfit) result
  rw [hvals] at hr
  exact answersResult_of_next ((hx s).trans hr)

end

/-- Two operations are the unsigned and the signed decode of a width: the shared decode of the accumulator's
last value, zero-extended and sign-extended (rules R133, R146), where the list holds the values that a
full-length token may begin with. -/
structure DecodePair (decu decs : Instr) (w : Nat) (leads : List Block) : Prop where
  /-- The unsigned decode. -/
  unsigned : ∀ s, exec decu s = decodeWith w (fun vals => zext128 (decodeValue w vals)) s
  /-- The signed decode. -/
  signed : ∀ s, exec decs s = decodeWith w (fun vals => sext128 (decodeValue w vals)) s
  /-- The width has at least one block. -/
  width_pos : 0 < w
  /-- Its tokens fit the ports. -/
  fits_port : blocksOf w ≤ 22
  /-- The values a full-length token may begin with. -/
  leads_of : LeadsOf w leads

theorem decodePair_24 : DecodePair .dec24u .dec24s 24 anyLead :=
  ⟨exec_dec24u, exec_dec24s, by decide, by decide, by decide +kernel⟩

theorem decodePair_32 : DecodePair .dec32u .dec32s 32 rest2Leads :=
  ⟨exec_dec32u, exec_dec32s, by decide, by decide, by decide +kernel⟩

theorem decodePair_48 : DecodePair .dec48u .dec48s 48 anyLead :=
  ⟨exec_dec48u, exec_dec48s, by decide, by decide, by decide +kernel⟩

theorem decodePair_64 : DecodePair .dec64u .dec64s 64 rest4Leads :=
  ⟨exec_dec64u, exec_dec64s, by decide, by decide, by decide +kernel⟩

/-- The pair of words is the 128-bit accumulator (rule R132). -/
theorem decodePair_128 : DecodePair .dec128u .dec128s 128 rest2Leads where
  unsigned s := by simp only [exec_dec128u, decodeValue128_eq_decodeValue]
  signed s := by simp only [exec_dec128s, decodeValue128_eq_decodeValue]
  width_pos := by decide
  fits_port := by decide
  leads_of := by decide +kernel

/-! ## The values the accumulators take -/

/-- The one-word accumulator after its first `j` characters (rules R130, R131). -/
def accAfter (w : Nat) (vals : List Block) (j : Nat) : BitVec w := (vals.take j).foldl accStep (seed w vals)

theorem accAfter_length (w : Nat) (vals : List Block) : accAfter w vals vals.length = decodeValue w vals := by
  rw [accAfter, List.take_length, decodeValue]

theorem accumulatorRun_accAfter (w : Nat) (vals : List Block) : AccumulatorRun w vals (accAfter w vals) := by
  refine ⟨rfl, fun j h => ?_⟩
  rw [accAfter, ← List.take_append_getElem h, List.foldl_append]
  rfl

/-- The pair of words after its first `j` characters (rules R130, R132). -/
def pairAfter (vals : List Block) (j : Nat) : Pair := (vals.take j).foldl pairStep (pairSeed vals)

theorem pairAfter_length (vals : List Block) : (pairAfter vals vals.length).toWord = decodeValue 128 vals := by
  rw [pairAfter, List.take_length, ← decodeValue128_eq, decodeValue128_eq_decodeValue]

theorem pairAfter_succ {vals : List Block} {j : Nat} (h : j < vals.length) :
    pairAfter vals (j + 1) = pairStep (pairAfter vals j) vals[j] := by
  rw [pairAfter, ← List.take_append_getElem h, List.foldl_append]
  rfl

theorem pairRun_pairAfter (vals : List Block) :
    PairRun vals (fun j => (pairAfter vals j).high) (fun j => (pairAfter vals j).low) := by
  refine ⟨rfl, rfl, fun j h => ?_⟩
  simp only [pairAfter_succ h]
  exact ⟨rfl, rfl⟩

/-! ## Symbols on the input port -/

@[simp] theorem codeOf_laneOf (c : Code) : codeOf (laneOf c) = c := BitVec.extractLsb'_append_eq_right

theorem laneOf_bit_seven (c : Code) : (laneOf c).getLsbD 7 = false := by
  rw [laneOf, BitVec.getLsbD_append]
  rfl

/-- The inverse ROM's word at a symbol is the symbol's value (rule R31). -/
theorem readInv_symbolOf {m : Memory} (h : m.wf) (v : Block) : readInv m (symbolOf m v) = symbolWord v := by
  rw [readInv_of_wf h]
  obtain ⟨u, hu, hw⟩ | ⟨hno, -⟩ := invWordAt_cases m.fwd (symbolOf m v)
  · rw [hw, symbolOf_injective_of_wf h hu]
  · exact absurd rfl (hno v)

/-- The bytes of the values' symbols, presented to a block with well-formed ROMs, are the token of those values. -/
theorem symbolToken_of_presentsBytes {s : State} {vals : List Block} (hm : s.mem.wf) (hlen : vals.length ≤ 23)
    (h : PresentsBytes s (vals.map fun v => laneOf (symbolOf s.mem v))) : SymbolToken s vals := by
  obtain ⟨hn, hlane⟩ := h
  rw [List.length_map] at hn hlane
  refine ⟨hn, hlen, fun j hj => ?_⟩
  have hbyte := hlane j hj
  rw [List.getElem?_map, List.getElem?_eq_getElem hj, Option.map_some, Option.some.injEq] at hbyte
  rw [← hbyte, laneOf_bit_seven, codeOf_laneOf, readInv_symbolOf hm, List.getElem?_eq_getElem hj]
  exact ⟨rfl, rfl⟩

/-! ## Every string at a width -/

section
variable {decu decs : Instr} {w : Nat} {leads : List Block}

/-- The two decodes on a token that fits: the extensions of its value (rules R133, R146). -/
theorem DecodePair.answersResult (hp : DecodePair decu decs w leads) {s : State} {vals : List Block}
    (h : SymbolToken s vals) (hfit : FitsWidth (blocksOf w) leads vals) :
    AnswersResult decu s ((decodeValue w vals).setWidth 128) ∧
      AnswersResult decs s ((decodeValue w vals).signExtend 128) :=
  ⟨answersResult_of_decodeWith hp.unsigned hp.leads_of h hfit,
    answersResult_of_decodeWith hp.signed hp.leads_of h hfit⟩

theorem DecodePair.refusesUnfitTokens (hp : DecodePair decu decs w leads) :
    RefusesUnfitTokens decu (blocksOf w) leads ∧ RefusesUnfitTokens decs (blocksOf w) leads :=
  ⟨refusesUnfitTokens_of_decodeWith hp.unsigned hp.width_pos hp.leads_of,
    refusesUnfitTokens_of_decodeWith hp.signed hp.width_pos hp.leads_of⟩

theorem DecodePair.decodesTokens (hp : DecodePair decu decs w leads) :
    DecodesTokens decu decs w (blocksOf w) leads := by
  refine ⟨fun s vals h hfit => ⟨accAfter w vals, accumulatorRun_accAfter w vals, ?_⟩, hp.refusesUnfitTokens⟩
  rw [accAfter_length]
  exact hp.answersResult h hfit

/-- The listed tokens decode to the values computed for them. -/
theorem DecodePair.decodesListed (hp : DecodePair decu decs w leads) {rows : List (List Block × BitVec w)}
    (hrows : ∀ row ∈ rows, FitsWidth (blocksOf w) leads row.1 ∧ decodeValue w row.1 = row.2) :
    DecodesListed decu decs rows := by
  intro row hrow s h
  obtain ⟨hfit, hval⟩ := hrows row hrow
  rw [← hval]
  exact hp.answersResult h hfit

end

/-- A decode under T0 (rule R85) gives, on the bytes of a fitting token's symbols, the result computed for the
token's values. -/
theorem decodesUnderT0_of_decodeWith {i : Instr} {w : Nat} {leads : List Block} {result : List Block → Word128}
    (hx : ∀ s, exec i s = decodeWith w result s) (hl : LeadsOf w leads) (vals : List Block) {bytes : List Byte}
    {r : Word128} (h : FitsWidth (blocksOf w) leads vals ∧ vals.length ≤ 23 ∧
      vals.map (fun v => laneOf (symbolOf (Memory.ofAlpha Config.t0) v)) = bytes ∧ result vals = r) :
    DecodesUnderT0 i bytes r := by
  obtain ⟨hfit, hlen, rfl, rfl⟩ := h
  intro s hm hs
  rw [← hm] at hs
  exact answersResult_of_decodeWith hx hl (symbolToken_of_presentsBytes (hm ▸ t0_wf) hlen hs) hfit

/-- At width 128 both decodes answer the last values of the pair of words (rules R132, R133, R144). -/
theorem dec128_answers_pairAfter {s : State} {vals : List Block} (h : SymbolToken s vals)
    (hfit : FitsWidth 22 rest2Leads vals) :
    AnswersResult .dec128u s ((pairAfter vals vals.length).high ++ (pairAfter vals vals.length).low) ∧
      AnswersResult .dec128s s ((pairAfter vals vals.length).high ++ (pairAfter vals vals.length).low) := by
  have hr := decodePair_128.answersResult h hfit
  rw [BitVec.setWidth_eq, BitVec.signExtend_eq, ← pairAfter_length] at hr
  exact hr

/-! ## The obligations -/

/-- Settles O35: the shared decode at width 24; the rows and the examples run. -/
theorem decTwentyFourDecodesItsTokens : Obligations.DecTwentyFourDecodesItsTokens := by
  unfold Obligations.DecTwentyFourDecodesItsTokens
  exact ⟨rfl, rfl, decodePair_24.decodesTokens, decodePair_24.decodesListed (by decide +kernel),
    decodesUnderT0_of_decodeWith decodePair_24.unsigned decodePair_24.leads_of [63#6, 62#6, 63#6]
      (by decide +kernel),
    decodesUnderT0_of_decodeWith decodePair_24.signed decodePair_24.leads_of [63#6, 62#6, 63#6]
      (by decide +kernel)⟩

/-- Settles O36: the shared decode at width 32. -/
theorem decThirtyTwoDecodesItsTokens : Obligations.DecThirtyTwoDecodesItsTokens := by
  unfold Obligations.DecThirtyTwoDecodesItsTokens
  exact ⟨rfl, rfl, decodePair_32.decodesTokens, decodePair_32.decodesListed (by decide +kernel),
    decodesUnderT0_of_decodeWith decodePair_32.unsigned decodePair_32.leads_of [63#6, 0#6, 42#6, 0#6, 0#6, 1#6]
      (by decide +kernel),
    decodesUnderT0_of_decodeWith decodePair_32.signed decodePair_32.leads_of [63#6, 0#6, 42#6, 0#6, 0#6, 1#6]
      (by decide +kernel)⟩

/-- Settles O37: the shared decode at width 48. -/
theorem decFortyEightDecodesItsTokens : Obligations.DecFortyEightDecodesItsTokens := by
  unfold Obligations.DecFortyEightDecodesItsTokens
  exact ⟨rfl, rfl, decodePair_48.decodesTokens, decodePair_48.decodesListed (by decide +kernel),
    decodesUnderT0_of_decodeWith decodePair_48.unsigned decodePair_48.leads_of [1#6, 40#6, 43#6, 15#6, 4#6, 53#6, 30#6]
      (by decide +kernel),
    decodesUnderT0_of_decodeWith decodePair_48.signed decodePair_48.leads_of [63#6, 62#6]
      (by decide +kernel)⟩

/-- Settles O38: the shared decode at width 64. -/
theorem decSixtyFourDecodesItsTokens : Obligations.DecSixtyFourDecodesItsTokens := by
  unfold Obligations.DecSixtyFourDecodesItsTokens
  exact ⟨rfl, rfl, decodePair_64.decodesTokens, decodePair_64.decodesListed (by decide +kernel),
    decodesUnderT0_of_decodeWith decodePair_64.unsigned decodePair_64.leads_of
      [4#6, 35#6, 17#6, 22#6, 30#6, 9#6, 42#6, 60#6, 55#6, 47#6]
      (by decide +kernel),
    decodesUnderT0_of_decodeWith decodePair_64.signed decodePair_64.leads_of
      [63#6, 59#6, 28#6, 46#6, 41#6, 33#6, 54#6, 21#6, 3#6, 8#6, 16#6]
      (by decide +kernel)⟩

/-- Settles O39: the pair of words at width 128, where both operations have the same effect. -/
theorem decOneTwentyEightDecodesItsTokens : Obligations.DecOneTwentyEightDecodesItsTokens := by
  unfold Obligations.DecOneTwentyEightDecodesItsTokens
  obtain ⟨-, -, -, -, -, hsame, -⟩ := resultsExtendOneDecodedValue
  obtain ⟨hrefu, hrefs⟩ := decodePair_128.refusesUnfitTokens
  exact ⟨rfl, rfl, fun s vals h hfit => ⟨_, _, pairRun_pairAfter vals, dec128_answers_pairAfter h hfit⟩,
    hrefu, hrefs, hsame, decodePair_128.decodesListed (by decide +kernel),
    decodesUnderT0_of_decodeWith decodePair_128.unsigned decodePair_128.leads_of (16#6 :: List.replicate 10 0#6)
      (by decide +kernel),
    decodesUnderT0_of_decodeWith decodePair_128.signed decodePair_128.leads_of (63#6 :: 48#6 :: List.replicate 10 0#6)
      (by decide +kernel)⟩

end Sys2Proof.Machine
end

section
/-! PROOFS. The round trip: an encode's token fits its width and decodes to the operand (44_decoder.md, rule R145). -/

namespace Sys2Proof.Machine

/-! ## The token of a value fits the value's width -/

/-- A block whose bits from `r - 1` on are all alike passes the leading-character test (rule R165). -/
theorem leadingOk_of_sign {r : Nat} {f : Block} {b : Bool} (hr : r ≤ 6)
    (h : ∀ k, r - 1 ≤ k → k < 6 → f.getLsbD k = b) : leadingOk r f = true := by
  rw [leadingOk, beq_iff_eq, h (r - 1) (le_refl _) (by omega)]
  refine BitVec.eq_of_getLsbD_eq fun k hk => ?_
  rw [BitVec.getLsbD_extractLsb', decide_eq_true hk, Bool.true_and, h (r + k) (by omega) (by omega)]
  cases b <;> simp [hk]

/-- The first block of a value ends in copies of the value's sign (rule R91), so it passes the test (rule R165). -/
theorem leadingOk_split_head {w : Nat} (v : BitVec w) (hr : restOf w ≠ 0) {f : Block}
    (hf : (split v).head? = some f) : leadingOk (restOf w) f = true := by
  unfold restOf at hr ⊢
  have hn : 6 * (blocksOf w - 1) + w % 6 = w ∧ 0 < blocksOf w := by unfold blocksOf; omega
  obtain ⟨hn, hpos⟩ := hn
  rw [List.head?_eq_getElem?, split_getElem? v hpos, Option.some.injEq] at hf
  refine leadingOk_of_sign (b := v.msb) (by omega) fun k hk hk6 => ?_
  rw [← hf, BitVec.getLsbD_extractLsb', extendToBlocks, BitVec.getLsbD_signExtend, Nat.sub_zero,
    decide_eq_true hk6, decide_eq_true (by omega), Bool.true_and, Bool.true_and]
  split
  · rw [BitVec.msb_eq_getLsbD_last]
    congr 1
    omega
  · rfl

theorem encodeBlocks_length_pos {w : Nat} (hw : 0 < w) (v : BitVec w) : 1 ≤ (encodeBlocks v).length := by
  have hpos : 0 < (split v).length := by rw [split_length, blocksOf]; omega
  have hlt := trim_lt_length (List.ne_nil_of_length_pos hpos)
  rw [encodeBlocks, kept_length]
  omega

/-- At full length nothing is trimmed. -/
theorem encodeBlocks_of_full {w : Nat} (hw : 0 < w) (v : BitVec w) (h : (encodeBlocks v).length = blocksOf w) :
    encodeBlocks v = split v := by
  have hpos := encodeBlocks_length_pos hw v
  rw [encodeBlocks, kept_length, split_length] at h hpos
  rw [encodeBlocks, kept, show trim (split v) = 0 by omega, List.drop_zero]

/-- The blocks of an encode fit its width (rule R111 (b)). -/
theorem encodeBlocks_fitsWidth {w : Nat} {leads : List Block} (hw : 0 < w) (hl : LeadsOf w leads) (v : BitVec w) :
    FitsWidth (blocksOf w) leads (encodeBlocks v) := by
  refine ⟨encodeBlocks_length_pos hw v, encodeBlocks_length_le v, fun hfull => ?_⟩
  rw [encodeBlocks_of_full hw v hfull]
  have hpos : 0 < (split v).length := by rw [split_length, blocksOf]; omega
  obtain ⟨f, rest, hsplit⟩ := List.exists_cons_of_length_pos hpos
  have hhead : (split v).head? = some f := by rw [hsplit, List.head?_cons]
  refine ⟨f, (hl f).mpr ?_, hhead⟩
  by_cases hr : restOf w = 0
  · exact .inl hr
  · exact .inr (leadingOk_split_head v hr hhead)

/-! ## A token from the output port to the input port -/

theorem presentsBytes_of_presentsTokenOf {u : State} {o : Outputs} {bytes : List Byte} (ho : CarriesBytes o bytes)
    (hu : PresentsTokenOf u o) : PresentsBytes u bytes := by
  obtain ⟨holen, holane⟩ := ho
  obtain ⟨hulen, hulane⟩ := hu
  exact ⟨by rw [hulen, holen], fun j hj => by rw [hulane j (holen ▸ hj), holane j hj]⟩

/-- The blocks that an answer carries are the token that a block with the same ROMs is presented with it. -/
theorem symbolToken_of_carriesBlocks {u : State} {o : Outputs} {vals : List Block} (hm : u.mem.wf)
    (hlen : vals.length ≤ 22) (ho : CarriesBlocks u.mem o vals) (hu : PresentsTokenOf u o) : SymbolToken u vals :=
  symbolToken_of_presentsBytes hm (by omega)
    (presentsBytes_of_presentsTokenOf (carriesBytes_of_carriesBlocks hlen ho) hu)

/-! ## The obligation -/

/-- The encode and the two decodes of one width: the token fits, and its blocks decode to the operand. -/
theorem DecodePair.roundTrips {enc decu decs : Instr} {w : Nat} {leads : List Block} {operand : Inputs → BitVec w}
    (hp : DecodePair decu decs w leads) (hx : ∀ s, exec enc s = encodeWith (operand s.inp) s) :
    RoundTrips enc decu decs operand := by
  intro s hm
  obtain ⟨t, ht, -, hc⟩ := answersBlocks_of_encodeWith hx hp.fits_port s
  refine ⟨t, ht, hc.1, fun u hu htok => ?_⟩
  rw [← hu] at hm hc
  have hlen := (encodeBlocks_length_le (operand s.inp)).trans hp.fits_port
  have hr := hp.answersResult (symbolToken_of_carriesBlocks hm hlen hc htok)
    (encodeBlocks_fitsWidth hp.width_pos hp.leads_of (operand s.inp))
  rwa [decodeValue_encodeBlocks] at hr

/-- Settles O51: each width's encode with its two decodes. -/
theorem encodeThenDecodeReturnsTheValue : Obligations.EncodeThenDecodeReturnsTheValue := by
  unfold Obligations.EncodeThenDecodeReturnsTheValue
  exact ⟨decodePair_24.roundTrips exec_enc24, decodePair_32.roundTrips exec_enc32,
    decodePair_48.roundTrips exec_enc48, decodePair_64.roundTrips exec_enc64_valLo,
    decodePair_128.roundTrips exec_enc128⟩

end Sys2Proof.Machine
end

section
/-! PROOFS. The validates: the class of every string (45_validator.md, rules R160 to R175). -/

namespace Sys2Proof.Machine

/-! ## The class of a list of bytes, test by test -/

section
variable (m : Memory) {tok : List Byte} (e : Nat)

/-- Rule R161. -/
theorem valid_nil : valid m [] e = .empty := rfl

/-- Rule R162. -/
theorem valid_of_mem_highBit (h : ∃ b ∈ tok, b.getLsbD 7 = true) : valid m tok e = .highBit := by
  have hne : tok ≠ [] := List.ne_nil_of_mem h.choose_spec.1
  have hany : tok.any hasHighBit = true := List.any_eq_true.mpr h
  simp [valid, hne, hany]

/-- Rule R163. -/
theorem valid_of_mem_nonSymbol (hlow : ∀ b ∈ tok, b.getLsbD 7 = false) (h : ∃ b ∈ tok, notSymbol m b = true) :
    valid m tok e = .wrongChar := by
  have hne : tok ≠ [] := List.ne_nil_of_mem h.choose_spec.1
  have hhigh : tok.any hasHighBit = false := by simpa [hasHighBit] using hlow
  have hany : tok.any (notSymbol m) = true := List.any_eq_true.mpr h
  simp [valid, hne, hhigh, hany]

variable {e}

/-- On a string of symbols the length test decides alone (rule R164). -/
theorem valid_eq_tooLong_iff (he : e ≠ 0) (hne : tok ≠ [])
    (hsym : ∀ b ∈ tok, b.getLsbD 7 = false ∧ notSymbol m b = false) :
    valid m tok e = .tooLong ↔ lengthBad m tok e = true := by
  have hhigh : tok.any hasHighBit = false := by simpa [hasHighBit] using fun b hb => (hsym b hb).1
  have hany : tok.any (notSymbol m) = false := by simpa using fun b hb => (hsym b hb).2
  simp [valid, hne, he, hhigh, hany]

end

/-- The length test of rule R164: too many characters, or full length and a leading value that fails the test. -/
theorem lengthBad_iff (m : Memory) (tok : List Byte) (e : Nat) :
    lengthBad m tok e = true ↔ blocksOf e < tok.length ∨ (tok.length = blocksOf e ∧ restOf e ≠ 0 ∧
      ∃ b, tok.head? = some b ∧ leadingOk (restOf e) (charValue m b) = false) := by
  cases tok with
  | nil => simp [lengthBad]
  | cons b rest => simp [lengthBad, and_assoc]

/-- With no width expected nothing is too long (rule R166). -/
theorem valid_zero_ne_tooLong (m : Memory) (tok : List Byte) : valid m tok 0 ≠ .tooLong := by
  rw [valid, bne_self_eq_false, Bool.false_and, if_neg Bool.false_ne_true]
  split_ifs <;> decide

/-- A code without a value is one whose word of `INV` has `inv = 1` (rule R82). -/
theorem valueOf_eq_none_iff_invFlag (m : Memory) (c : Code) : valueOf m c = none ↔ invFlag (readInv m c) = true := by
  cases h : invFlag (readInv m c) <;> simp [valueOf, h]

/-! ## The bytes on the input port -/

/-- The token operand is the bytes presented (rule R54). -/
theorem tokenOperand_of_presentsBytes {s : State} {bytes : List Byte} (h : PresentsBytes s bytes)
    (hlen : bytes.length ≤ 23) : tokenOperand s.inp = bytes := by
  obtain ⟨hn, hlane⟩ := h
  refine List.ext_getElem? fun j => ?_
  by_cases hj : j < bytes.length
  · rw [tokenOperand_getElem? _ (hn ▸ hj) (by omega), hlane j hj]
  · rw [List.getElem?_eq_none (by rw [tokenOperand_length]; omega), List.getElem?_eq_none (by omega)]

/-! ## An operation that is the shared validate of a width -/

section
variable {i : Instr} {w : Nat} {leads : List Block}

theorem answersIllegal_of_validWith (hx : ∀ s, exec i s = validWith w s) {s : State}
    (h : 23 < s.inp.tokInLen.toNat) : AnswersStatus i s .illegalReq := by
  obtain ⟨-, hr⟩ | ⟨hlen, -⟩ := validWith_cases w s
  · exact answersStatus_of_next ((hx s).trans hr)
  · omega

/-- A string that the port holds is answered its class (rule R175). -/
theorem answersStatus_of_validWith (hx : ∀ s, exec i s = validWith w s) {s : State} {st : Status}
    (h : s.inp.tokInLen.toNat ≤ 23) (hv : valid s.mem (tokenOperand s.inp) w = st) : AnswersStatus i s st := by
  obtain ⟨hlen, -⟩ | ⟨-, hr⟩ := validWith_cases w s
  · omega
  · exact answersStatus_of_next ((hx s).trans (hv ▸ hr))

theorem refusesBadStrings_of_validWith (hx : ∀ s, exec i s = validWith w s) : RefusesBadStrings i := by
  refine ⟨fun s h => ?_, fun s h => ?_, fun s h1 h23 hb => ?_, fun s h1 h23 hb hn => ?_⟩
  · exact answersIllegal_of_validWith hx h
  · exact answersStatus_of_validWith hx (by omega) (valid_of_no_characters h w)
  · exact answersStatus_of_validWith hx h23 (valid_of_highBit h1 h23 hb w)
  · exact answersStatus_of_validWith hx h23 (valid_of_nonSymbol h1 h23 hb hn w)

/-- The validate of a width classifies every string by the values that its full-length tokens may begin with
(rules R164, R165). -/
theorem validatesTokens_of_validWith (hx : ∀ s, exec i s = validWith w s) (hw : 0 < w) (hl : LeadsOf w leads) :
    ValidatesTokens i (blocksOf w) leads := by
  refine ⟨fun s vals h hfit => ?_, fun s vals h hlong => ?_, refusesBadStrings_of_validWith hx⟩
  · exact answersStatus_of_validWith hx (h.1.trans_le h.2.1) (valid_of_fitsWidth hl h hfit)
  · exact answersStatus_of_validWith hx (h.1.trans_le h.2.1) (valid_of_tooLongFor hw hl h hlong)

/-- A validate under T0 (rule R85) answers the classes computed for the listed strings. -/
theorem validatesUnderT0_of_validWith (hx : ∀ s, exec i s = validWith w s) {rows : List (List Byte × Status)}
    (hrows : ∀ row ∈ rows, row.1.length ≤ 23 ∧ valid (Memory.ofAlpha Config.t0) row.1 w = row.2) :
    ValidatesUnderT0 i rows := by
  intro row hrow s hm hs
  obtain ⟨hlen, hv⟩ := hrows row hrow
  refine answersStatus_of_validWith hx (hs.1.trans_le hlen) ?_
  rw [hm, tokenOperand_of_presentsBytes hs hlen, hv]

end

/-! ## `VALID0` -/

@[simp] theorem listedCode_eq_tooLong_iff (st : Status) : listedCode st = 4#3 ↔ st = .tooLong := by
  cases st <;> decide

/-- With no width expected every token of symbols is `OK` (rule R166). -/
theorem valid0_answers_ok {s : State} {vals : List Block} (h : SymbolToken s vals) (h1 : 1 ≤ vals.length) :
    AnswersStatus .valid0 s .ok :=
  answersStatus_of_validWith exec_valid0 (h.1.trans_le h.2.1) (valid_of_symbols h h1 0)

theorem valid0_status_ne_tooLong (s : State) : ∃ t, exec .valid0 s = .next t ∧ t.out.status ≠ 4#3 := by
  obtain ⟨-, hr⟩ | ⟨-, hr⟩ := validWith_cases 0 s
  · exact ⟨_, (exec_valid0 s).trans hr, by simp⟩
  · exact ⟨_, (exec_valid0 s).trans hr, by simp [valid_zero_ne_tooLong]⟩

/-! ## The obligations -/

/-- Settles O47: the tests in their order, on the list of bytes. -/
theorem characterTestsComeFirst : Obligations.CharacterTestsComeFirst := by
  unfold Obligations.CharacterTestsComeFirst
  intro m e
  refine ⟨valid_nil m e, fun tok _ => ⟨valid_of_mem_highBit m e, fun hlow hnone => ?_⟩⟩
  simp only [valueOf_eq_none_iff_invFlag] at hnone
  exact valid_of_mem_nonSymbol m e hlow hnone

/-- Settles O43: the shared validate with no width expected; the strings under T0 run. -/
theorem validZeroClassifiesEveryString : Obligations.ValidZeroClassifiesEveryString := by
  unfold Obligations.ValidZeroClassifiesEveryString
  exact ⟨rfl, fun s vals => valid0_answers_ok, refusesBadStrings_of_validWith exec_valid0,
    valid0_status_ne_tooLong, validatesUnderT0_of_validWith exec_valid0 (by decide +kernel)⟩

/-- Settles O44: the shared validate at the two widths of whole blocks, where any value may lead. -/
theorem validMultiplesOfSixClassifyEveryString : Obligations.ValidMultiplesOfSixClassifyEveryString := by
  unfold Obligations.ValidMultiplesOfSixClassifyEveryString
  exact ⟨rfl, rfl, validatesTokens_of_validWith exec_valid24 (by decide) decodePair_24.leads_of,
    validatesTokens_of_validWith exec_valid48 (by decide) decodePair_48.leads_of⟩

/-- Settles O45: the shared validate at the two widths that are two bits more than whole blocks. -/
theorem validWithTwoLeadingBitsClassifyEveryString : Obligations.ValidWithTwoLeadingBitsClassifyEveryString := by
  unfold Obligations.ValidWithTwoLeadingBitsClassifyEveryString
  exact ⟨rfl, rfl, validatesTokens_of_validWith exec_valid32 (by decide) decodePair_32.leads_of,
    validatesTokens_of_validWith exec_valid128 (by decide) decodePair_128.leads_of⟩

/-- Settles O46: the shared validate at width 64. -/
theorem validSixtyFourClassifiesEveryString : Obligations.ValidSixtyFourClassifiesEveryString := by
  unfold Obligations.ValidSixtyFourClassifiesEveryString
  exact ⟨rfl, validatesTokens_of_validWith exec_valid64 (by decide) decodePair_64.leads_of⟩

end Sys2Proof.Machine
end

section
/-! PROOFS. The leading-character test: what it accepts, and that the splitter makes exactly those blocks
(45_validator.md, rule R165). -/

namespace Sys2Proof.Machine

/-! ## What the test accepts -/

/-- The test on the block's number: above the sign bit either all ones or all zeros. -/
theorem leadingOk_iff_toNat (r : Nat) (f : Block) : leadingOk r f = true ↔
    f.toNat / 2 ^ r % 2 ^ (6 - r) = if f.toNat / 2 ^ (r - 1) % 2 = 1 then 2 ^ (6 - r) - 1 else 0 := by
  rw [leadingOk, beq_iff_eq, ← BitVec.toNat_inj, BitVec.extractLsb'_toNat, Nat.shiftRight_eq_div_pow,
    BitVec.getLsbD, Nat.testBit_eq_decide_div_mod_eq]
  by_cases hsign : f.toNat / 2 ^ (r - 1) % 2 = 1
  · simp [hsign]
  · simp [hsign]

/-- The accepted blocks are the nonnegative numbers of `r - 1` bits and the negative ones. -/
theorem leadingOk_iff_bounds {r : Nat} (hr : 1 ≤ r) (hr5 : r ≤ 5) (f : Block) : leadingOk r f = true ↔
    (f.toNat ≤ 2 ^ (r - 1) - 1 ∨ 64 - 2 ^ (r - 1) ≤ f.toNat) := by
  have hf := f.isLt
  rw [leadingOk_iff_toNat]
  split_ifs with hsign
  · interval_cases r <;> omega
  · interval_cases r <;> omega

/-- An accepted block is copies of one bit from position `r - 1` on. -/
theorem getLsbD_of_leadingOk {r : Nat} {f : Block} (h : leadingOk r f = true) {k : Nat} (hk : r ≤ k) (hk6 : k < 6) :
    f.getLsbD k = f.getLsbD (r - 1) := by
  rw [leadingOk, beq_iff_eq] at h
  have hbit := congrArg (fun x => x.getLsbD (k - r)) h
  have hlt : k - r < 6 - r := by omega
  simp only [BitVec.getLsbD_extractLsb', decide_eq_true hlt, Bool.true_and, Nat.add_sub_of_le hk] at hbit
  rw [hbit]
  cases f.getLsbD (r - 1) <;> simp [hlt]

/-! ## The splitter's first blocks -/

/-- The value of width `w` whose top bits are the block's low ones, above zeros. -/
def valueLedBy (w : Nat) (f : Block) : BitVec w := f.setWidth w <<< (6 * (blocksOf w - 1))

theorem getLsbD_valueLedBy {w : Nat} (f : Block) {j : Nat} (h : 6 * (blocksOf w - 1) + j < w) :
    (valueLedBy w f).getLsbD (6 * (blocksOf w - 1) + j) = f.getLsbD j := by
  simp [valueLedBy, h]

/-- An accepted block is the first block of the value it leads: the splitter copies the sign back (rule R91). -/
theorem split_valueLedBy_head {w : Nat} (hr : restOf w ≠ 0) {f : Block} (hf : leadingOk (restOf w) f = true) :
    (split (valueLedBy w f)).head? = some f := by
  have hn : 6 * (blocksOf w - 1) + restOf w = w ∧ 0 < blocksOf w ∧ restOf w < 6 := by
    unfold restOf blocksOf at *
    omega
  obtain ⟨hn, hpos, hlt⟩ := hn
  have hmsb : (valueLedBy w f).msb = f.getLsbD (restOf w - 1) := by
    rw [BitVec.msb_eq_getLsbD_last, show w - 1 = 6 * (blocksOf w - 1) + (restOf w - 1) by omega,
      getLsbD_valueLedBy f (by omega)]
  rw [List.head?_eq_getElem?, split_getElem? _ hpos, Option.some.injEq]
  refine BitVec.eq_of_getLsbD_eq fun j hj => ?_
  rw [BitVec.getLsbD_extractLsb', extendToBlocks, BitVec.getLsbD_signExtend, Nat.sub_zero,
    decide_eq_true hj, decide_eq_true (by omega), Bool.true_and, Bool.true_and]
  split
  · next h => exact getLsbD_valueLedBy f h
  · next h => rw [hmsb, getLsbD_of_leadingOk hf (by omega) hj]

/-- The test accepts exactly the first blocks of the width's values (rule R165). -/
theorem leadingOk_iff_split_head {w : Nat} (hr : restOf w ≠ 0) (f : Block) :
    leadingOk (restOf w) f = true ↔ ∃ v : BitVec w, (split v).head? = some f :=
  ⟨fun hf => ⟨valueLedBy w f, split_valueLedBy_head hr hf⟩, fun ⟨v, hv⟩ => leadingOk_split_head v hr hv⟩

/-- The listed values of a width that is no whole number of blocks are those the test accepts. -/
theorem leadingOk_iff_mem_leads {w : Nat} {leads : List Block} (hl : LeadsOf w leads) (hr : restOf w ≠ 0)
    (f : Block) : leadingOk (restOf w) f = true ↔ f ∈ leads := by
  rw [hl f, or_iff_right hr]

theorem mem_leads_iff_split_head {w : Nat} {leads : List Block} (hl : LeadsOf w leads) (hr : restOf w ≠ 0)
    (f : Block) : f ∈ leads ↔ ∃ v : BitVec w, (split v).head? = some f := by
  rw [← leadingOk_iff_mem_leads hl hr, leadingOk_iff_split_head hr]

/-! ## The obligation -/

/-- Settles O48: when the test applies, what it accepts by the block's number, and each listed set as the first
blocks of its widths. -/
theorem leadingTestAcceptsSplitterHeads : Obligations.LeadingTestAcceptsSplitterHeads := by
  unfold Obligations.LeadingTestAcceptsSplitterHeads
  refine ⟨fun m tok e he hne hsym => ?_, fun r hr hr5 => leadingOk_iff_bounds hr hr5,
    leadingOk_iff_mem_leads decodePair_32.leads_of (by decide),
    leadingOk_iff_mem_leads decodePair_64.leads_of (by decide),
    mem_leads_iff_split_head decodePair_32.leads_of (by decide),
    mem_leads_iff_split_head decodePair_128.leads_of (by decide),
    mem_leads_iff_split_head decodePair_64.leads_of (by decide)⟩
  exact (valid_eq_tooLong_iff m he hne hsym).trans (lengthBad_iff m tok e)

end Sys2Proof.Machine
end

section
/-! PROOFS. The statuses: which operation reports which, and when (60_exceptions.md, rules R190 to R198). -/

namespace Sys2Proof.Machine

/-! ## The codes of rule R57 -/

@[simp] theorem listedCode_inj {st st' : Status} : listedCode st = listedCode st' ↔ st = st' := by
  cases st <;> cases st' <;> decide

/-- Codes 5 and 6 are no status (rule R57). -/
theorem listedCode_ne_five_six (st : Status) : listedCode st ≠ 5#3 ∧ listedCode st ≠ 6#3 := by
  cases st <;> decide

/-- The six listed codes are the codes of the six statuses (rule R57). -/
theorem exists_listedCode_of_mem {c : BitVec 3} (h : c ∈ [0#3, 1#3, 2#3, 3#3, 4#3, 7#3]) :
    ∃ st, listedCode st = c := by
  simp only [List.mem_cons, List.not_mem_nil, or_false] at h
  obtain rfl | rfl | rfl | rfl | rfl | rfl := h
  · exact ⟨.ok, rfl⟩
  · exact ⟨.empty, rfl⟩
  · exact ⟨.highBit, rfl⟩
  · exact ⟨.wrongChar, rfl⟩
  · exact ⟨.tooLong, rfl⟩
  · exact ⟨.illegalReq, rfl⟩

/-! ## The class of a presented string -/

/-- The class of what is presented to a token operation that expects `e` bits: an illegal request when the port
cannot hold it, else the validator's class (rules R58 (b), R160). -/
def tokenClass (e : Nat) (s : State) : Status :=
  if tokenTooWide s.inp then .illegalReq else valid s.mem (tokenOperand s.inp) e

theorem tokenClass_of_tooWide {s : State} (h : 23 < s.inp.tokInLen.toNat) (e : Nat) :
    tokenClass e s = .illegalReq :=
  if_pos ((tokenTooWide_iff _).mpr h)

theorem tokenClass_of_legal {s : State} (h : s.inp.tokInLen.toNat ≤ 23) (e : Nat) :
    tokenClass e s = valid s.mem (tokenOperand s.inp) e :=
  if_neg (mt (tokenTooWide_iff _).mp (by omega))

/-- Without a bad byte only the length test is left (rule R164). -/
theorem valid_of_no_bad_byte {s : State} (h1 : 1 ≤ s.inp.tokInLen.toNat) (h : s.inp.tokInLen.toNat ≤ 23)
    (hb : ¬ SomeHighBit s) (hn : ¬ SomeNonSymbol s) (e : Nat) :
    valid s.mem (tokenOperand s.inp) e = .ok ∨ valid s.mem (tokenOperand s.inp) e = .tooLong := by
  rw [← any_hasHighBit_iff h] at hb
  rw [← any_notSymbol_iff h] at hn
  rw [valid, if_neg (by simp [tokenOperand_not_empty h1 h]), if_neg hb, if_neg hn]
  split_ifs
  · exact .inr rfl
  · exact .inl rfl

/-- The class of every string, by the tests of rule R198 in their order. -/
theorem tokenClass_cases (e : Nat) (s : State) :
    (23 < s.inp.tokInLen.toNat ∧ tokenClass e s = .illegalReq) ∨
      (s.inp.tokInLen.toNat = 0 ∧ tokenClass e s = .empty) ∨
      ((1 ≤ s.inp.tokInLen.toNat ∧ s.inp.tokInLen.toNat ≤ 23) ∧
        (SomeHighBit s ∧ tokenClass e s = .highBit ∨
          ¬ SomeHighBit s ∧ SomeNonSymbol s ∧ tokenClass e s = .wrongChar ∨
          ¬ SomeHighBit s ∧ ¬ SomeNonSymbol s ∧ (tokenClass e s = .ok ∨ tokenClass e s = .tooLong))) := by
  by_cases hlen : 23 < s.inp.tokInLen.toNat
  · exact .inl ⟨hlen, tokenClass_of_tooWide hlen e⟩
  have h23 : s.inp.tokInLen.toNat ≤ 23 := by omega
  rw [tokenClass_of_legal h23]
  by_cases h0 : s.inp.tokInLen.toNat = 0
  · exact .inr (.inl ⟨h0, valid_of_no_characters h0 e⟩)
  have h1 : 1 ≤ s.inp.tokInLen.toNat := by omega
  refine .inr (.inr ⟨⟨h1, h23⟩, ?_⟩)
  by_cases hb : SomeHighBit s
  · exact .inl ⟨hb, valid_of_highBit h1 h23 hb e⟩
  by_cases hn : SomeNonSymbol s
  · exact .inr (.inl ⟨hb, hn, valid_of_nonSymbol h1 h23 hb hn e⟩)
  · exact .inr (.inr ⟨hb, hn, valid_of_no_bad_byte h1 h23 hb hn e⟩)

/-- The exact causes of the four classes that no width decides (rules R192, R193, R194, R196). -/
theorem tokenClass_causes (e : Nat) (s : State) :
    (tokenClass e s = .illegalReq ↔ 23 < s.inp.tokInLen.toNat) ∧
    (tokenClass e s = .empty ↔ s.inp.tokInLen.toNat = 0) ∧
    (tokenClass e s = .highBit ↔ 1 ≤ s.inp.tokInLen.toNat ∧ s.inp.tokInLen.toNat ≤ 23 ∧ SomeHighBit s) ∧
    (tokenClass e s = .wrongChar ↔ 1 ≤ s.inp.tokInLen.toNat ∧ s.inp.tokInLen.toNat ≤ 23 ∧ ¬ SomeHighBit s ∧
      SomeNonSymbol s) := by
  obtain ⟨hlen, hc⟩ | ⟨hlen, hc⟩ | ⟨⟨h1, h23⟩, ⟨hb, hc⟩ | ⟨hb, hn, hc⟩ | ⟨hb, hn, hc⟩⟩ := tokenClass_cases e s
  · simp [hc, hlen, show s.inp.tokInLen.toNat ≠ 0 by omega, show ¬ s.inp.tokInLen.toNat ≤ 23 by omega]
  · simp [hc, hlen]
  · simp [hc, hb, h1, h23, Nat.ne_of_gt h1]
  · simp [hc, hb, hn, h1, h23, Nat.ne_of_gt h1]
  · obtain hc | hc := hc <;> simp [hc, hn, h23, Nat.ne_of_gt h1, hb]

/-! ## The status of an operation -/

/-- Operation `i` reports the class of its string at `e` expected bits, by its listed code, in every state. -/
def ReportsClass (i : Instr) (e : Nat) : Prop :=
  ∀ s, ∃ t, exec i s = .next t ∧ t.out.status = listedCode (tokenClass e s)

theorem reportsClass_of_validWith {i : Instr} {e : Nat} (hx : ∀ s, exec i s = validWith e s) : ReportsClass i e := by
  intro s
  obtain ⟨hlen, hr⟩ | ⟨hlen, hr⟩ := validWith_cases e s
  · exact ⟨_, (hx s).trans hr, by simp [tokenClass_of_tooWide hlen]⟩
  · exact ⟨_, (hx s).trans hr, by simp [tokenClass_of_legal hlen]⟩

/-- A decode's own answer is `OK`, which is the class of its string there (rule R146). -/
theorem reportsClass_of_decodeWith {i : Instr} {w : Nat} {result : List Block → Word128}
    (hx : ∀ s, exec i s = decodeWith w result s) : ReportsClass i w := by
  intro s
  obtain ⟨hlen, hr⟩ | ⟨hlen, -, hr⟩ | ⟨hlen, hok, hr⟩ := decodeWith_cases w result s
  · exact ⟨_, (hx s).trans hr, by simp [tokenClass_of_tooWide hlen]⟩
  · exact ⟨_, (hx s).trans hr, by simp [tokenClass_of_legal hlen]⟩
  · exact ⟨_, (hx s).trans hr, by simp [tokenClass_of_legal hlen, hok, listedCode]⟩

/-- Every decode and validate reports the class of its string at a supported width, or, `VALID0` alone, with no
width expected (rules R146, R160, R175). -/
theorem exec_reportsClass (i : Instr) (hi : i.opClass ≠ .enc) :
    ∃ e ∈ 0 :: supportedWidths, (e = 0 → i = .valid0) ∧ ReportsClass i e := by
  cases i with
  | enc24 | enc32 | enc48 | enc64 | enc128 => exact absurd rfl hi
  | dec24u => exact ⟨24, by decide, nofun, reportsClass_of_decodeWith exec_dec24u⟩
  | dec32u => exact ⟨32, by decide, nofun, reportsClass_of_decodeWith exec_dec32u⟩
  | dec48u => exact ⟨48, by decide, nofun, reportsClass_of_decodeWith exec_dec48u⟩
  | dec64u => exact ⟨64, by decide, nofun, reportsClass_of_decodeWith exec_dec64u⟩
  | dec128u => exact ⟨128, by decide, nofun, reportsClass_of_decodeWith exec_dec128u⟩
  | dec24s => exact ⟨24, by decide, nofun, reportsClass_of_decodeWith exec_dec24s⟩
  | dec32s => exact ⟨32, by decide, nofun, reportsClass_of_decodeWith exec_dec32s⟩
  | dec48s => exact ⟨48, by decide, nofun, reportsClass_of_decodeWith exec_dec48s⟩
  | dec64s => exact ⟨64, by decide, nofun, reportsClass_of_decodeWith exec_dec64s⟩
  | dec128s => exact ⟨128, by decide, nofun, reportsClass_of_decodeWith exec_dec128s⟩
  | valid0 => exact ⟨0, by decide, fun _ => rfl, reportsClass_of_validWith exec_valid0⟩
  | valid24 => exact ⟨24, by decide, nofun, reportsClass_of_validWith exec_valid24⟩
  | valid32 => exact ⟨32, by decide, nofun, reportsClass_of_validWith exec_valid32⟩
  | valid48 => exact ⟨48, by decide, nofun, reportsClass_of_validWith exec_valid48⟩
  | valid64 => exact ⟨64, by decide, nofun, reportsClass_of_validWith exec_valid64⟩
  | valid128 => exact ⟨128, by decide, nofun, reportsClass_of_validWith exec_valid128⟩

/-- An encode always succeeds (rule R112). -/
theorem exec_enc_status {i : Instr} (hi : i.opClass = .enc) (s : State) :
    ∃ t, exec i s = .next t ∧ t.out.status = 0#3 := by
  obtain ⟨-, w, v, hx⟩ | ⟨hc, -⟩ | ⟨hc, -⟩ := exec_cases i s
  · exact ⟨_, hx.trans (encodeWith_next v s), rfl⟩
  · exact absurd hi hc
  · exact absurd hi hc

/-- A presented transaction is answered one of the six statuses (rule R57). -/
theorem step_status_listed {s : State} (hp : s.presented = true) :
    ∃ t st, step s = .next t ∧ t.out.status = listedCode st := by
  cases hd : decodeOp s.inp.op with
  | error e => exact ⟨_, .illegalReq, step_of_reserved hp hd, rfl⟩
  | ok i =>
    rw [step_of_decode hp hd]
    by_cases hi : i.opClass = .enc
    · obtain ⟨t, ht, hst⟩ := exec_enc_status hi s
      exact ⟨t, .ok, ht, hst⟩
    · obtain ⟨e, -, -, hrep⟩ := exec_reportsClass i hi
      obtain ⟨t, ht, hst⟩ := hrep s
      exact ⟨t, _, ht, hst⟩

/-! ## A state for every status -/

/-- A block built with the test alphabet T0 (rule R85) that is presented `len` characters, the same byte on every
lane. -/
def sameByteState (len : BitVec 5) (b : Byte) : State :=
  (State.reset.withAlphabet Config.t0).present
    { Inputs.reset with tokInLen := len, tokIn := Vector.replicate 23 b }

/-- A string of every class: one symbol, one byte with bit 7 set, one space, the whole port full of symbols (more
than any width's blocks), and lengths 0 and 24. -/
def stateOfClass : Status → State
  | .ok => sameByteState 1#5 0x30#8
  | .empty => sameByteState 0#5 0x30#8
  | .highBit => sameByteState 1#5 0x80#8
  | .wrongChar => sameByteState 1#5 0x20#8
  | .tooLong => sameByteState 23#5 0x30#8
  | .illegalReq => sameByteState 24#5 0x30#8

theorem tokenClass_stateOfClass {e : Nat} (he : e ∈ 0 :: supportedWidths) {st : Status}
    (h0 : e = 0 → st ≠ .tooLong) : tokenClass e (stateOfClass st) = st := by
  obtain ⟨hillegal, hempty, hhigh, hwrong⟩ := tokenClass_causes e (stateOfClass st)
  cases st with
  | ok =>
    have hrun : ∀ w ∈ 0 :: supportedWidths, tokenClass w (stateOfClass .ok) = .ok := by decide +kernel
    exact hrun e he
  | tooLong =>
    have hrun : ∀ w ∈ supportedWidths, tokenClass w (stateOfClass .tooLong) = .tooLong := by decide +kernel
    exact hrun e ((List.mem_cons.mp he).resolve_left fun h => h0 h rfl)
  | empty => exact hempty.mpr (by decide)
  | highBit => exact hhigh.mpr (by decide)
  | wrongChar => exact hwrong.mpr (by decide +kernel)
  | illegalReq => exact hillegal.mpr (by decide)

/-- Every decode and validate can report every status, but `VALID0` not `TOO_LONG` (rule R197). -/
theorem exec_can_report {i : Instr} (hi : i.opClass ≠ .enc) {st : Status} (h0 : i = .valid0 → st ≠ .tooLong) :
    ∃ s t, exec i s = .next t ∧ t.out.status = listedCode st := by
  obtain ⟨e, he, hvalid0, hrep⟩ := exec_reportsClass i hi
  obtain ⟨t, ht, hst⟩ := hrep (stateOfClass st)
  rw [tokenClass_stateOfClass he (h0 ∘ hvalid0)] at hst
  exact ⟨_, t, ht, hst⟩

/-! ## The obligation -/

/-- Settles O52: every token operation reports the class of its string, whose causes and reach are those of the
class; an encode, a reserved word and the two unused codes by the step. -/
theorem statusesReportedPerOperation : Obligations.StatusesReportedPerOperation := by
  unfold Obligations.StatusesReportedPerOperation
  refine ⟨fun i => exec_enc_status, fun i hi c hc h0 => ?_, valid0_status_ne_tooLong, fun i hi s t ht => ?_,
    fun s hp hop => ⟨_, step_of_reserved hp (decodeOp_of_reserved hop), rfl⟩, fun s t hp ht => ?_⟩
  · obtain ⟨st, rfl⟩ := exists_listedCode_of_mem hc
    exact exec_can_report hi fun hv htl => h0 hv ((listedCode_eq_tooLong_iff st).mpr htl)
  · obtain ⟨e, -, -, hrep⟩ := exec_reportsClass i hi
    obtain ⟨t', ht', hst⟩ := hrep s
    obtain rfl : t = t' := by simpa using ht.symm.trans ht'
    obtain ⟨hillegal, hempty, hhigh, hwrong⟩ := tokenClass_causes e s
    rw [hst]
    exact ⟨listedCode_inj.trans hillegal, listedCode_inj.trans hempty, listedCode_inj.trans hhigh,
      listedCode_inj.trans hwrong⟩
  · obtain ⟨t', st, ht', hst⟩ := step_status_listed hp
    obtain rfl : t = t' := by simpa using ht.symm.trans ht'
    rw [hst]
    exact listedCode_ne_five_six st

end Sys2Proof.Machine
end

section
/-! PROOFS. Reset: what the ROMs hold, and that the first transaction finds nothing else (70_reset_and_hazards.md,
rule R220). -/

namespace Sys2Proof.Machine

/-- The ROMs are well formed at reset, whatever the alphabet (rules R80, R222). -/
theorem State.reset_mem_wf : State.reset.mem.wf := Memory.ofAlpha_wf Config.alpha.ok

/-- A code that is no word of `FWD` has the non-symbol word in `INV` (rule R31). -/
theorem readInv_of_not_symbol {m : Memory} (h : m.wf) {c : Code} (hc : ∀ v : Block, readFwd m v ≠ c) :
    readInv m c = nonSymbolWord := by
  rw [readInv_of_wf h]
  obtain ⟨v, hv, -⟩ | ⟨-, hw⟩ := invWordAt_cases m.fwd c
  · exact absurd hv (hc v)
  · exact hw

/-- Two presented transactions with the same inputs and ROMs answer alike and keep the ROMs, whatever their
histories (rules R12, R33). -/
theorem step_out_eq_of_same_ports {s s' : State} (hp : s.presented = true) (hp' : s'.presented = true)
    (hinp : s.inp = s'.inp) (hmem : s.mem = s'.mem) :
    ∃ t t', step s = .next t ∧ step s' = .next t' ∧ t.out = t'.out ∧ t.mem = s.mem := by
  obtain ⟨o, ho⟩ := step_answers s.inp s.mem
  exact ⟨s.answer o, s'.answer o, ho s hp rfl rfl, ho s' hp' hinp.symm hmem.symm, rfl, rfl⟩

/-! ## The obligation -/

/-- Settles O16: `INV` inverts `FWD` as in every block with well-formed ROMs, and the state presented at reset
agrees with the other in inputs and ROMs. -/
theorem firstTransactionAfterResetIsLikeAnyOther : Obligations.FirstTransactionAfterResetIsLikeAnyOther := by
  unfold Obligations.FirstTransactionAfterResetIsLikeAnyOther
  refine ⟨fun _ => rfl, readInv_symbolOf State.reset_mem_wf,
    fun _ => readInv_of_not_symbol State.reset_mem_wf, fun inp s hmem hp hinp => ?_⟩
  exact step_out_eq_of_same_ports (State.present_presented _ inp) hp hinp.symm hmem.symm

end Sys2Proof.Machine
end

section
/-! PROOFS. The integers block lists stand for: in base 64, with a signed leading block, and modulo two to a width
(41_splitter.md, rule R93; 44_decoder.md section 1). -/

namespace Sys2Proof.Machine

/-! ## The number of a block list in base 64 -/

theorem foldl_base64 (a : Nat) (vals : List Block) :
    vals.foldl (fun a b => 64 * a + b.toNat) a = a * 64 ^ vals.length + blockNat vals := by
  induction vals generalizing a with
  | nil => simp [blockNat]
  | cons b bs ih =>
    rw [blockNat, List.foldl_cons, List.foldl_cons, ih, ih (64 * 0 + b.toNat), List.length_cons, pow_succ]
    ring

theorem blockNat_cons (b : Block) (bs : List Block) :
    blockNat (b :: bs) = b.toNat * 64 ^ bs.length + blockNat bs := by
  rw [blockNat, List.foldl_cons, foldl_base64, Nat.mul_zero, Nat.zero_add]

theorem blockNat_append_singleton (bs : List Block) (b : Block) :
    blockNat (bs ++ [b]) = 64 * blockNat bs + b.toNat := by
  rw [blockNat, List.foldl_append, List.foldl_cons, List.foldl_nil, ← blockNat]

theorem blockNat_lt (vals : List Block) : blockNat vals < 64 ^ vals.length := by
  induction vals with
  | nil => decide
  | cons b bs ih =>
    have hb := Nat.mul_le_mul_right (64 ^ bs.length) (Nat.le_of_lt_succ b.isLt)
    rw [blockNat_cons, List.length_cons, pow_succ]
    omega

/-! ## A signed digit above blocks -/

/-- The integer of a leading digit of either sign and the blocks after it. -/
def ledValue (a : Int) (rest : List Block) : Int := a * 64 ^ rest.length + blockNat rest

theorem blockNat_cons_eq_ledValue (b : Block) (bs : List Block) :
    (blockNat (b :: bs) : Int) = ledValue b.toNat bs := by
  rw [blockNat_cons, ledValue]
  push_cast
  rfl

/-- Bounds of the leading digit bound the integer. -/
theorem ledValue_bounds {lo hi a : Int} (hlo : lo ≤ a) (hhi : a < hi) (rest : List Block) :
    lo * 64 ^ rest.length ≤ ledValue a rest ∧ ledValue a rest < hi * 64 ^ rest.length := by
  have hP : (0 : Int) ≤ 64 ^ rest.length := by positivity
  have hlt : (blockNat rest : Int) < 64 ^ rest.length := by exact_mod_cast blockNat_lt rest
  have h1 := mul_le_mul_of_nonneg_right hlo hP
  have h2 := mul_le_mul_of_nonneg_right (Int.add_one_le_of_lt hhi) hP
  rw [add_mul] at h2
  rw [ledValue]
  omega

/-- The digit and the number below it are the quotient and the remainder. -/
theorem ledValue_inj_of_length_eq {a a' : Int} {r r' : List Block} (hlen : r.length = r'.length)
    (h : ledValue a r = ledValue a' r') : a = a' ∧ blockNat r = blockNat r' := by
  have hP : (0 : Int) < 64 ^ r.length := by positivity
  have hr : (blockNat r : Int) < 64 ^ r.length := by exact_mod_cast blockNat_lt r
  have hr' : (blockNat r' : Int) < 64 ^ r.length := by rw [hlen]; exact_mod_cast blockNat_lt r'
  have hq (d : Int) {n : Int} (h0 : 0 ≤ n) (hn : n < 64 ^ r.length) :
      (d * 64 ^ r.length + n) / 64 ^ r.length = d := by
    rw [add_comm, Int.add_mul_ediv_right _ _ hP.ne', Int.ediv_eq_zero_of_lt h0 hn, zero_add]
  rw [ledValue, ledValue, ← hlen] at h
  have ha : a = a' := by
    rw [← hq a (Int.natCast_nonneg _) hr, h, hq a' (Int.natCast_nonneg _) hr']
  subst ha
  exact ⟨rfl, by exact_mod_cast add_left_cancel h⟩

/-- Blocks are base-64 digits: lists of one length that write one number are equal. -/
theorem eq_of_blockNat_eq : ∀ {l l' : List Block}, l.length = l'.length → blockNat l = blockNat l' → l = l'
  | [], [], _, _ => rfl
  | b :: bs, b' :: bs', hlen, h => by
    have hlen' : bs.length = bs'.length := by simpa using hlen
    have hled : ledValue b.toNat bs = ledValue b'.toNat bs' := by
      rw [← blockNat_cons_eq_ledValue, ← blockNat_cons_eq_ledValue, h]
    obtain ⟨hb, hbs⟩ := ledValue_inj_of_length_eq hlen' hled
    rw [BitVec.eq_of_toNat_eq (by exact_mod_cast hb : b.toNat = b'.toNat), eq_of_blockNat_eq hlen' hbs]

theorem ledValue_cons (a : Int) (b : Block) (bs : List Block) :
    ledValue a (b :: bs) = ledValue (64 * a + b.toNat) bs := by
  rw [ledValue, ledValue, blockNat_cons, List.length_cons, pow_succ]
  push_cast
  ring

/-! ## The decoder's integer -/

/-- The digit a decoder reads the first block as: −1 for the block 63, else the block's number (rule R130). -/
def leadValue (b : Block) : Int := if b = 63#6 then -1 else b.toNat

theorem leadValue_bounds (b : Block) : -1 ≤ leadValue b ∧ leadValue b < 63 := by
  have hb := b.isLt
  unfold leadValue
  split
  · decide
  · next h =>
    have : b.toNat ≠ 63 := fun e => h (BitVec.eq_of_toNat_eq e)
    omega

theorem leadValue_injective : Function.Injective leadValue := by
  intro b b' h
  unfold leadValue at h
  split at h <;> split at h
  · next hb hb' => rw [hb, hb']
  · omega
  · omega
  · exact BitVec.eq_of_toNat_eq (by exact_mod_cast h)

/-- The formula of 44_decoder.md section 1, by its leading digit. -/
theorem zValue_cons (b : Block) (bs : List Block) : zValue (b :: bs) = ledValue (leadValue b) bs := by
  rw [zValue, List.head?_cons, blockNat_cons_eq_ledValue, ledValue, ledValue, leadValue, List.length_cons, pow_succ]
  by_cases hb : b = 63#6
  · subst hb
    simp only [if_true]
    have : ((63#6 : Block).toNat : Int) = 63 := rfl
    rw [this]
    ring
  · rw [if_neg hb, if_neg (by simpa using hb), sub_zero]

/-- The range of the formula. -/
theorem zValue_bounds {vals : List Block} (h : vals ≠ []) :
    -(64 : Int) ^ (vals.length - 1) ≤ zValue vals ∧ zValue vals ≤ 63 * (64 : Int) ^ (vals.length - 1) - 1 := by
  obtain ⟨b, bs, rfl⟩ := List.exists_cons_of_ne_nil h
  obtain ⟨hlo, hhi⟩ := leadValue_bounds b
  have := ledValue_bounds hlo hhi bs
  rw [zValue_cons, List.length_cons, Nat.add_sub_cancel]
  omega

theorem accStep_ofInt (w : Nat) (z : Int) (v : Block) :
    accStep (BitVec.ofInt w z) v = BitVec.ofInt w (64 * z + v.toNat) := by
  have hdisj : (BitVec.ofInt w z <<< 6) &&& v.setWidth w = 0#w := by
    refine BitVec.eq_of_getLsbD_eq fun j hj => ?_
    rw [BitVec.getLsbD_and, BitVec.getLsbD_shiftLeft, BitVec.getLsbD_setWidth]
    by_cases h6 : j < 6
    · simp [h6]
    · simp [BitVec.getLsbD_of_ge v j (by omega)]
  have h64 : BitVec.twoPow w 6 = BitVec.ofInt w 64 := BitVec.eq_of_toNat_eq (by simp)
  rw [accStep, ← BitVec.add_eq_or_of_and_eq_zero _ _ hdisj, BitVec.shiftLeft_eq_mul_twoPow, h64, BitVec.ofInt_add,
    BitVec.ofInt_mul, BitVec.ofInt_natCast, BitVec.mul_comm, BitVec.ofNat_toNat]

theorem foldl_accStep_ofInt (w : Nat) (z : Int) (vals : List Block) :
    vals.foldl accStep (BitVec.ofInt w z) = BitVec.ofInt w (ledValue z vals) := by
  induction vals generalizing z with
  | nil => simp [ledValue, blockNat]
  | cons b bs ih => rw [List.foldl_cons, accStep_ofInt, ih, ledValue_cons]

/-- The accumulator computes the integer formula, modulo two to the width (rules R130, R131). -/
theorem decodeValue_eq_ofInt (w : Nat) (vals : List Block) : decodeValue w vals = BitVec.ofInt w (zValue vals) := by
  have hseed : seed w vals = BitVec.ofInt w (if vals.head? = some 63#6 then -1 else 0) := by
    unfold seed Config.ones
    split
    · rw [BitVec.ofInt_neg, ← BitVec.neg_one_eq_allOnes]
      rfl
    · rfl
  rw [decodeValue, hseed, foldl_accStep_ofInt, ledValue, zValue]
  congr 1
  split <;> ring

/-! ## Below full length the formula is the signed value -/

theorem pow64_le_of_lt_blocksOf {w n : Nat} (h : n < blocksOf w) : (64 : Int) ^ n ≤ 2 ^ (w - 1) := by
  rw [show (64 : Int) = 2 ^ 6 by norm_num, ← pow_mul]
  unfold blocksOf at h
  exact pow_le_pow_right₀ (by norm_num) (by omega)

theorem toInt_decodeValue_of_short {w : Nat} {vals : List Block} (hne : vals ≠ []) (h : vals.length < blocksOf w) :
    (decodeValue w vals).toInt = zValue vals := by
  have hw : 0 < w := by unfold blocksOf at h; omega
  have hpow := pow64_le_of_lt_blocksOf h
  obtain ⟨hlo, hhi⟩ := zValue_bounds hne
  have hlen : vals.length = vals.length - 1 + 1 := by have := List.length_pos_of_ne_nil hne; omega
  rw [hlen, pow_succ] at hpow
  rw [decodeValue_eq_ofInt]
  have hP : (0 : Int) < 64 ^ (vals.length - 1) := by positivity
  exact BitVec.toInt_ofInt_eq_self hw (by omega) (by omega)

/-! ## At full length the leading digit counts modulo 64 only -/

theorem ofInt_ledValue_congr {w : Nat} {a a' : Int} {rest : List Block} (h : a ≡ a' [ZMOD 64])
    (hw : w ≤ 6 * (rest.length + 1)) : BitVec.ofInt w (ledValue a rest) = BitVec.ofInt w (ledValue a' rest) := by
  have hdvd : (2 : Int) ^ w ∣ 64 * 64 ^ rest.length := by
    rw [← pow_succ', show (64 : Int) = 2 ^ 6 by norm_num, ← pow_mul]
    exact pow_dvd_pow 2 hw
  have hmod : ledValue a rest ≡ ledValue a' rest [ZMOD 2 ^ w] :=
    ((h.mul_right' (c := 64 ^ rest.length)).of_dvd hdvd).add_right _
  refine BitVec.eq_of_toNat_eq ?_
  rw [BitVec.toNat_ofInt, BitVec.toNat_ofInt]
  push_cast
  rw [hmod]

theorem leadValue_modEq_toNat (b : Block) : leadValue b ≡ b.toNat [ZMOD 64] := by
  unfold leadValue
  split
  · next h => rw [h]; rfl
  · rfl

theorem leadValue_modEq_toInt (b : Block) : leadValue b ≡ b.toInt [ZMOD 64] := by
  refine (leadValue_modEq_toNat b).trans ?_
  rw [BitVec.toInt_eq_toNat_cond]
  split
  · rfl
  · exact Int.modEq_iff_dvd.mpr (by norm_num)

/-- From full length on a decode gives the low bits of the concatenated blocks. -/
theorem toNat_decodeValue_of_full {w : Nat} {vals : List Block} (hne : vals ≠ []) (h : blocksOf w ≤ vals.length) :
    (decodeValue w vals).toNat = blockNat vals % 2 ^ w := by
  have hw := le_six_mul_blocksOf w
  obtain ⟨b, bs, rfl⟩ := List.exists_cons_of_ne_nil hne
  rw [List.length_cons] at h
  rw [decodeValue_eq_ofInt, zValue_cons, ofInt_ledValue_congr (leadValue_modEq_toNat b) (by omega),
    ← blockNat_cons_eq_ledValue, BitVec.ofInt_natCast, BitVec.toNat_ofNat]

/-- A block that a value of the width can begin with is, read as signed, within the bits the width has there
(rules R91, R165). -/
theorem toInt_bounds_of_lead {w r : Nat} (hw : w = 6 * (blocksOf w - 1) + (r + 1)) (hr : r < 6) {b : Block}
    (h : restOf w ≠ 0 → leadingOk (restOf w) b = true) : -2 ^ r ≤ b.toInt ∧ b.toInt < 2 ^ r := by
  have hb := b.isLt
  rw [BitVec.toInt_eq_toNat_cond]
  by_cases h0 : restOf w = 0
  · obtain rfl : r = 5 := by unfold restOf at h0; omega
    split <;> omega
  · have hrest : restOf w = r + 1 := by unfold restOf at *; omega
    have hlead := h h0
    rw [hrest, leadingOk_iff_bounds (by omega) (by unfold restOf at h0; omega), Nat.add_sub_cancel] at hlead
    interval_cases r <;> split <;> omega

/-- A full-length list that passes the leading-character test decodes to its blocks with the first read as signed. -/
theorem toInt_decodeValue_of_full {w : Nat} {b : Block} {bs : List Block} (hlen : bs.length + 1 = blocksOf w)
    (h : restOf w ≠ 0 → leadingOk (restOf w) b = true) :
    (decodeValue w (b :: bs)).toInt = ledValue b.toInt bs := by
  obtain ⟨r, hr, hw⟩ : ∃ r < 6, w = 6 * (blocksOf w - 1) + (r + 1) :=
    ⟨w - 6 * (blocksOf w - 1) - 1, by unfold blocksOf at *; omega, by unfold blocksOf at *; omega⟩
  obtain ⟨hlo, hhi⟩ := toInt_bounds_of_lead hw hr h
  obtain ⟨hlo, hhi⟩ := ledValue_bounds hlo hhi bs
  have hpow : (2 : Int) ^ r * 64 ^ bs.length = 2 ^ (w - 1) := by
    rw [show (64 : Int) = 2 ^ 6 by norm_num, ← pow_mul, ← pow_add]
    congr 1
    omega
  rw [neg_mul, hpow] at hlo
  rw [hpow] at hhi
  rw [decodeValue_eq_ofInt, zValue_cons, ofInt_ledValue_congr (leadValue_modEq_toInt b) (by omega)]
  exact BitVec.toInt_ofInt_eq_self (by omega) hlo hhi

end Sys2Proof.Machine
end

section
/-! PROOFS. The canonical block list: its length, and that it is the shortest and the only one of its length that
decodes to the value (42_trimmer.md, rules R102 to R105; 44_decoder.md, rule R134). -/

namespace Sys2Proof.Machine

/-! ## What the scan leaves and what it drops -/

theorem kept_cons_of_droppable {b c : Block} {rest : List Block} (h : droppable b c = true) :
    kept (b :: c :: rest) = kept (c :: rest) := by
  rw [kept, trim_cons_of_droppable h, List.drop_succ_cons, kept]

theorem kept_of_trim_eq_zero {l : List Block} (h : trim l = 0) : kept l = l := by
  rw [kept, h, List.drop_zero]

/-- The scan has stopped: the first surviving block is not droppable before the second. -/
theorem not_droppable_of_kept_eq : ∀ {l : List Block} {b c : Block} {rest : List Block},
    kept l = b :: c :: rest → droppable b c = false
  | x :: y :: l, b, c, rest, h => by
    cases hd : droppable x y with
    | false =>
      rw [kept_of_trim_eq_zero (trim_cons_of_not_droppable hd)] at h
      cases h
      exact hd
    | true => exact not_droppable_of_kept_eq (kept_cons_of_droppable hd ▸ h)

theorem eq_ones_iff_of_droppable {b c : Block} (h : droppable b c = true) : b = 63#6 ↔ c = 63#6 := by
  rw [droppable_iff] at h
  by_cases hc : c = 63#6
  · simpa [hc] using h
  · simp [hc] at h
    simp [hc, h]

/-- The scan stops at a block 63 exactly when it starts at one. -/
theorem kept_head_eq_ones_iff : ∀ l : List Block, (kept l).head? = some 63#6 ↔ l.head? = some 63#6
  | [] => Iff.rfl
  | [_] => Iff.rfl
  | b :: c :: rest => by
    cases hd : droppable b c with
    | false => rw [kept_of_trim_eq_zero (trim_cons_of_not_droppable hd)]
    | true =>
      rw [kept_cons_of_droppable hd, kept_head_eq_ones_iff (c :: rest)]
      simpa using (eq_ones_iff_of_droppable hd).symm

/-- Every block the scan drops is the seed's: 63 when the list starts with 63, else 0 (rule R103). -/
theorem eq_of_mem_dropped : ∀ {l : List Block} {x : Block}, x ∈ l.take (trim l) →
    x = if l.head? = some 63#6 then 63#6 else 0#6
  | b :: c :: rest, x, hx => by
    cases hd : droppable b c with
    | false => simp [trim_cons_of_not_droppable hd] at hx
    | true =>
      have hb := eq_ones_iff_of_droppable hd
      rw [trim_cons_of_droppable hd, List.take_succ_cons, List.mem_cons] at hx
      obtain rfl | hx := hx
      · rw [droppable_iff] at hd
        simp only [List.head?_cons, Option.some.injEq, hb]
        split at hd
        · next hc => rw [if_pos hc, hd]
        · next hc => rw [if_neg hc, hd]
      · simpa [hb] using eq_of_mem_dropped hx

/-- The sign of a value is that of its first block (rule R91). -/
theorem msb_eq_msb_of_split_head {w : Nat} (v : BitVec w) {b : Block} (h : (split v).head? = some b) :
    v.msb = b.msb := by
  have hpos : 0 < blocksOf w := by
    rw [← split_length v]
    exact List.length_pos_of_ne_nil (by rintro e; simp [e] at h)
  have hw := le_six_mul_blocksOf w
  rw [List.head?_eq_getElem?, split_getElem? v hpos, Option.some.injEq] at h
  rw [← h, BitVec.msb_eq_getLsbD_last (x := BitVec.extractLsb' _ _ _), BitVec.getLsbD_extractLsb', extendToBlocks,
    BitVec.getLsbD_signExtend, Nat.sub_zero, decide_eq_true (by omega), decide_eq_true (by omega), Bool.true_and,
    Bool.true_and]
  split
  · rw [BitVec.msb_eq_getLsbD_last]
    congr 1
    omega
  · rfl

/-! ## The canonical blocks as an integer -/

/-- The canonical blocks of a value: the value as a signed digit above blocks, where the digit is −1 or 0 exactly
when the first block is 63 or 0. -/
theorem exists_ledValue_encodeBlocks {w : Nat} (hw : 0 < w) (v : BitVec w) :
    ∃ (b : Block) (rest : List Block) (a : Int), encodeBlocks v = b :: rest ∧ v.toInt = ledValue a rest ∧
      (a = -1 ↔ b = 63#6) ∧ (a = 0 ↔ b = 0#6) := by
  have hpos := encodeBlocks_length_pos hw v
  obtain ⟨b, rest, he⟩ := List.exists_cons_of_length_pos hpos
  have hval : (decodeValue w (b :: rest)).toInt = v.toInt := by rw [← he, decodeValue_encodeBlocks]
  rcases Nat.lt_or_eq_of_le (encodeBlocks_length_le v) with hshort | hfull
  · rw [he] at hshort
    refine ⟨b, rest, leadValue b, he, ?_, ?_, ?_⟩
    · rw [← hval, toInt_decodeValue_of_short (List.cons_ne_nil b rest) hshort, zValue_cons]
    · exact leadValue_injective.eq_iff (b := 63#6)
    · exact leadValue_injective.eq_iff (b := 0#6)
  · have hhead : (split v).head? = some b := by rw [← encodeBlocks_of_full hw v hfull, he, List.head?_cons]
    rw [he] at hfull
    refine ⟨b, rest, b.toInt, he, ?_, ?_, ?_⟩
    · rw [← hval, toInt_decodeValue_of_full hfull fun hr => leadingOk_split_head v hr hhead]
    · exact BitVec.toInt_inj (y := 63#6)
    · exact BitVec.toInt_inj (y := 0#6)

/-- No shorter list reaches the value: it is outside the range of rule R134 for every shorter length (rule R104). -/
theorem toInt_outside_of_lt_length {w : Nat} (hw : 0 < w) (v : BitVec w) {l : Nat} (h1 : 1 ≤ l)
    (hl : l < (encodeBlocks v).length) : v.toInt < -(64 : Int) ^ (l - 1) ∨ 63 * (64 : Int) ^ (l - 1) ≤ v.toInt := by
  obtain ⟨b, rest, a, he, hv, hones, hzero⟩ := exists_ledValue_encodeBlocks hw v
  rw [he, List.length_cons] at hl
  obtain ⟨c, rest, rfl⟩ := List.exists_cons_of_length_pos (l := rest) (by omega)
  have hstop := not_droppable_of_kept_eq he
  rw [← Bool.not_eq_true, droppable_iff] at hstop
  rw [List.length_cons] at hl
  have hpow : (64 : Int) ^ (l - 1) ≤ 64 ^ rest.length := pow_le_pow_right₀ (by norm_num) (by omega)
  have hdigits : 64 * a + c.toNat < -1 ∨ 63 ≤ 64 * a + c.toNat := by
    have hc := c.isLt
    by_cases hc63 : c = 63#6
    · rw [if_pos hc63, ← hones] at hstop
      rw [hc63]
      norm_num
      omega
    · have : c.toNat ≠ 63 := fun e => hc63 (BitVec.eq_of_toNat_eq e)
      rw [if_neg hc63, ← hzero] at hstop
      omega
  rw [hv, ledValue_cons]
  obtain hd | hd := hdigits
  · obtain ⟨-, hhi⟩ := ledValue_bounds (le_refl _) hd rest
    exact .inl (by omega)
  · obtain ⟨hlo, -⟩ := ledValue_bounds hd (lt_add_one _) rest
    exact .inr (by omega)

/-- Below full length the value is the formula of its canonical blocks. -/
theorem toInt_eq_zValue_encodeBlocks {w : Nat} (hw : 0 < w) {v : BitVec w} (h : (encodeBlocks v).length < blocksOf w) :
    v.toInt = zValue (encodeBlocks v) := by
  have hne := List.ne_nil_of_length_pos (encodeBlocks_length_pos hw v)
  rw [← toInt_decodeValue_of_short hne h, decodeValue_encodeBlocks]

/-! ## Shortest, and unique at its length -/

theorem encodeBlocks_length_le_of_decodeValue {w : Nat} (hw : 0 < w) {v : BitVec w} {vals : List Block}
    (hne : vals ≠ []) (h : decodeValue w vals = v) : (encodeBlocks v).length ≤ vals.length := by
  by_contra hlt
  have hlt : vals.length < (encodeBlocks v).length := by omega
  obtain ⟨hlo, hhi⟩ := zValue_bounds hne
  rw [← toInt_decodeValue_of_short hne (hlt.trans_le (encodeBlocks_length_le v)), h] at hlo hhi
  have := toInt_outside_of_lt_length hw v (List.length_pos_of_ne_nil hne) hlt
  omega

/-- Lists of one length whose first blocks are read by an injective reading are equal when their integers are. -/
theorem cons_eq_of_ledValue_eq {f : Block → Int} (hf : Function.Injective f) {b b' : Block} {bs bs' : List Block}
    (hlen : (b :: bs).length = (b' :: bs').length) (h : ledValue (f b) bs = ledValue (f b') bs') :
    b :: bs = b' :: bs' := by
  have hlen' : bs.length = bs'.length := by simpa using hlen
  obtain ⟨hb, hbs⟩ := ledValue_inj_of_length_eq hlen' h
  rw [hf hb, eq_of_blockNat_eq hlen' hbs]

theorem eq_encodeBlocks_of_decodeValue {w : Nat} (hw : 0 < w) {v : BitVec w} {vals : List Block}
    (hlen : vals.length = (encodeBlocks v).length) (h : decodeValue w vals = v)
    (hlead : vals.length = blocksOf w → restOf w ≠ 0 → ∃ f, vals.head? = some f ∧ leadingOk (restOf w) f = true) :
    vals = encodeBlocks v := by
  have hpos := encodeBlocks_length_pos hw v
  have hle := encodeBlocks_length_le v
  have hcanon := decodeValue_encodeBlocks v
  have hcanonHead : (encodeBlocks v).length = blocksOf w → restOf w ≠ 0 →
      ∀ f, (encodeBlocks v).head? = some f → leadingOk (restOf w) f = true := fun hfull hr f hf =>
    leadingOk_split_head v hr (encodeBlocks_of_full hw v hfull ▸ hf)
  generalize encodeBlocks v = canon at *
  obtain ⟨b, bs, rfl⟩ := List.exists_cons_of_length_pos (hlen ▸ hpos)
  obtain ⟨c, cs, rfl⟩ := List.exists_cons_of_length_pos hpos
  rcases Nat.lt_or_eq_of_le hle with hshort | hfull
  · refine cons_eq_of_ledValue_eq leadValue_injective hlen ?_
    rw [← zValue_cons, ← zValue_cons, ← toInt_decodeValue_of_short (List.cons_ne_nil b bs) (hlen.trans_lt hshort),
      ← toInt_decodeValue_of_short (List.cons_ne_nil c cs) hshort, h, hcanon]
  · refine cons_eq_of_ledValue_eq (fun _ _ => BitVec.eq_of_toInt_eq) hlen ?_
    rw [← toInt_decodeValue_of_full (hlen.trans hfull) fun hr => ?_,
      ← toInt_decodeValue_of_full hfull fun hr => hcanonHead hfull hr c rfl, h, hcanon]
    obtain ⟨f, hf, hok⟩ := hlead (hlen.trans hfull) hr
    cases hf
    exact hok

/-! ## The obligations -/

theorem supportedWidths_pos {w : Nat} (h : w ∈ supportedWidths) : 0 < w := by
  revert w
  decide

/-- Settles O27: the blocks shift the value back in, trimmed or not; a shorter suffix would be shorter than the
canonical list. -/
theorem trimmingKeepsTheValueAndIsIrreducible : Obligations.TrimmingKeepsTheValueAndIsIrreducible := by
  unfold Obligations.TrimmingKeepsTheValueAndIsIrreducible
  intro w hw v
  refine ⟨decodeValue_split v, decodeValue_encodeBlocks v, fun k hk hlen h => ?_⟩
  have hne : (split v).drop k ≠ [] := List.ne_nil_of_length_pos (by rw [List.length_drop]; omega)
  have hle := encodeBlocks_length_le_of_decodeValue (supportedWidths_pos hw) hne h
  rw [encodeBlocks, kept_length, List.length_drop] at hle
  omega

/-- Settles O29: two lists of one length with one value are one list, below full length by the formula of rule R134
and at full length by the blocks read with a signed lead. -/
theorem canonicalTokenIsUnique : Obligations.CanonicalTokenIsUnique := by
  unfold Obligations.CanonicalTokenIsUnique
  intro w hw v vals
  exact eq_encodeBlocks_of_decodeValue (supportedWidths_pos hw)

/-- Settles O28: a shorter list's range does not hold the value. -/
theorem canonicalTokenIsShortest : Obligations.CanonicalTokenIsShortest := by
  unfold Obligations.CanonicalTokenIsShortest
  intro w hw v vals
  exact encodeBlocks_length_le_of_decodeValue (supportedWidths_pos hw)

/-- Settles O26: the value is outside the range of every shorter length, and below full length inside its own. -/
theorem canonicalLengthClosedForm : Obligations.CanonicalLengthClosedForm := by
  unfold Obligations.CanonicalLengthClosedForm
  intro w hw v
  have hw := supportedWidths_pos hw
  have hpow (l : Nat) : (0 : Int) < 64 ^ (l - 1) := by positivity
  have hshorter := fun l => toInt_outside_of_lt_length hw v (l := l)
  have hown : (encodeBlocks v).length < (w + 5) / 6 →
      -(64 : Int) ^ ((encodeBlocks v).length - 1) ≤ v.toInt ∧
        v.toInt ≤ 63 * (64 : Int) ^ ((encodeBlocks v).length - 1) - 1 := fun h => by
    rw [toInt_eq_zValue_encodeBlocks hw h]
    exact zValue_bounds (List.ne_nil_of_length_pos (encodeBlocks_length_pos hw v))
  refine ⟨encodeBlocks_length_pos hw v, encodeBlocks_length_le v,
    fun hsign => ⟨fun l h1 hl => ?_, fun h => (hown h).2⟩, fun hsign => ⟨fun l h1 hl => ?_, fun h => (hown h).1⟩⟩
  · have := hpow l
    have := hshorter l h1 hl
    omega
  · have := hpow l
    have := hshorter l h1 hl
    omega

/-- Settles O40: the range by the leading digit, and the accumulator as the formula modulo two to the width. -/
theorem decodeValueIsTheIntegerFormula : Obligations.DecodeValueIsTheIntegerFormula := by
  unfold Obligations.DecodeValueIsTheIntegerFormula
  intro vals hne
  obtain ⟨hlo, hhi⟩ := zValue_bounds hne
  refine ⟨hlo, hhi, fun w _ => ⟨?_, toInt_decodeValue_of_short hne, fun hfull => ?_⟩⟩
  · rw [decodeValue_eq_ofInt, BitVec.toNat_ofInt, Int.toNat_of_nonneg (Int.emod_nonneg _ (by positivity))]
    push_cast
    rfl
  · exact toNat_decodeValue_of_full hne hfull.ge

/-- Settles O25: the dropped blocks are the seed's, and the first block's top bit is the value's sign. -/
theorem droppedPrefixTellsTheSign : Obligations.DroppedPrefixTellsTheSign := by
  unfold Obligations.DroppedPrefixTellsTheSign
  intro w _ v
  by_cases ht : trim (split v) = 0
  · exact .inl ht
  have ht1 : 1 ≤ trim (split v) := Nat.one_le_iff_ne_zero.mpr ht
  obtain ⟨b, rest, hs⟩ := List.exists_cons_of_ne_nil (l := split v) (by rintro e; simp [e, trim] at ht)
  have hhead : (split v).head? = some b := by rw [hs, List.head?_cons]
  have hmem : b ∈ (split v).take (trim (split v)) := by
    obtain ⟨k, hk⟩ := Nat.exists_eq_add_of_le' ht1
    rw [hk, hs]
    simp
  have hb := eq_of_mem_dropped hmem
  have hmsb := msb_eq_msb_of_split_head v hhead
  refine .inr ?_
  by_cases hones : (split v).head? = some 63#6
  · rw [if_pos hones] at hb
    refine .inr ⟨ht1, fun x hx => ?_, (kept_head_eq_ones_iff _).mpr hones, by rw [hmsb, hb]; rfl⟩
    rw [eq_of_mem_dropped hx, if_pos hones]
  · rw [if_neg hones] at hb
    refine .inl ⟨ht1, fun x hx => ?_, mt (kept_head_eq_ones_iff _).mp hones, by rw [hmsb, hb]; rfl⟩
    rw [eq_of_mem_dropped hx, if_neg hones]

end Sys2Proof.Machine
end

section
/-! PROOFS. The splitter's blocks by width, and the trimmer's second form (41_splitter.md, rules R91 to R93;
42_trimmer.md, rule R101). -/

namespace Sys2Proof.Machine

/-! ## The blocks of a value write it in base 64 -/

/-- The first `i` of `n` slices write the bits above the others. -/
theorem blockNat_slices {m n : Nat} (x : BitVec m) (hm : m ≤ 6 * n) {i : Nat} (hi : i ≤ n) :
    blockNat ((List.range i).map fun k => x.extractLsb' (6 * (n - 1 - k)) 6) = x.toNat / 2 ^ (6 * (n - i)) := by
  induction i with
  | zero =>
    have hx : x.toNat < 2 ^ (6 * n) := x.isLt.trans_le (Nat.pow_le_pow_right (by decide) hm)
    exact (Nat.div_eq_of_lt hx).symm
  | succ i ih =>
    have hpow : 2 ^ (6 * (n - i)) = 2 ^ (6 * (n - (i + 1))) * 64 := by
      rw [show (64 : Nat) = 2 ^ 6 from rfl, ← pow_add]
      congr 1
      omega
    rw [List.range_succ, List.map_append, List.map_singleton, blockNat_append_singleton, ih (by omega),
      BitVec.extractLsb'_toNat, Nat.shiftRight_eq_div_pow, hpow, ← Nat.div_div_eq_div_mul,
      show n - 1 - i = n - (i + 1) by omega]
    exact Nat.div_add_mod _ _

theorem blockNat_split {w : Nat} (v : BitVec w) : blockNat (split v) = (extendToBlocks v).toNat := by
  rw [split, blockNat_slices _ (le_refl _) (le_refl _), Nat.sub_self, Nat.mul_zero, pow_zero, Nat.div_one]

/-! ## The forward scan -/

theorem droppables_cons_cons (b c : Block) (rest : List Block) :
    droppables (b :: c :: rest) = droppable b c :: droppables (c :: rest) := rfl

theorem droppables_length (b : List Block) : (droppables b).length = b.length - 1 := by
  rw [droppables, List.length_zipWith, List.length_tail]
  omega

/-- The trimmer counts the leading droppable positions. -/
theorem trim_eq_length_takeWhile : ∀ b : List Block, trim b = ((droppables b).takeWhile id).length
  | [] => rfl
  | [_] => rfl
  | b :: c :: rest => by
    rw [droppables_cons_cons]
    cases h : droppable b c with
    | false => rw [trim_cons_of_not_droppable h]; rfl
    | true => rw [trim_cons_of_droppable h, trim_eq_length_takeWhile (c :: rest)]; rfl

/-- Once stopped the scan does not resume (rule R101). -/
theorem foldl_scanStep_stopped (p : Nat) (ds : List Bool) :
    ds.foldl scanStep ⟨p, .stopped⟩ = ⟨p, .stopped⟩ := by
  induction ds with
  | nil => rfl
  | cons d ds ih => exact ih

/-- While trimming the scan moves one position for each leading true value, and stops at the first false one. -/
theorem foldl_scanStep_trimming (p : Nat) (ds : List Bool) :
    (ds.foldl scanStep ⟨p, .trimming⟩).pos = p + (ds.takeWhile id).length ∧
      ((ds.foldl scanStep ⟨p, .trimming⟩).state = .stopped ↔ (ds.takeWhile id).length < ds.length) := by
  induction ds generalizing p with
  | nil => simp
  | cons d ds ih =>
    cases d with
    | false =>
      rw [List.foldl_cons, show scanStep ⟨p, .trimming⟩ false = ⟨p, .stopped⟩ from rfl, foldl_scanStep_stopped]
      simp
    | true =>
      obtain ⟨hpos, hstate⟩ := ih (p + 1)
      rw [List.foldl_cons, show scanStep ⟨p, .trimming⟩ true = ⟨p + 1, .trimming⟩ from rfl, hpos, hstate]
      simp
      omega

/-! ## The obligations -/

/-- Settles O20: whole blocks at widths 24 and 48, sign copies above the top bits at the other three. -/
theorem splitterBlocksWidthByWidth : Obligations.SplitterBlocksWidthByWidth := by
  unfold Obligations.SplitterBlocksWidthByWidth
  refine ⟨fun v => ?_, fun v => ?_, fun v => ?_, fun v => ?_, fun v => ?_⟩
  · exact split_of_whole_blocks (n := 4) v rfl
  · exact split_of_sign_copies (n := 5) (c := 4) (r := 2) v rfl (by decide) rfl
  · rw [split_of_whole_blocks (n := 8) v rfl]
    rfl
  · rw [split_of_sign_copies (n := 10) (c := 2) (r := 4) v rfl (by decide) rfl]
    rfl
  · rw [split_of_sign_copies (n := 21) (c := 4) (r := 2) v rfl (by decide) rfl]
    rfl

/-- Settles O21: the two words as the operand words of `ENC128`. -/
theorem splitterStraddlesTheWordBoundary : Obligations.SplitterStraddlesTheWordBoundary := by
  unfold Obligations.SplitterStraddlesTheWordBoundary
  intro h l
  rw [BitVec.msb_eq_getLsbD_last h]
  exact split_intOperand128 { Inputs.reset with valHi := h, valLo := l }

/-- Settles O22: the slices of the sign-extended value, most significant first, write it. -/
theorem blocksReassembleTheValue : Obligations.BlocksReassembleTheValue := by
  unfold Obligations.BlocksReassembleTheValue
  exact fun w v => ⟨split_length v, blockNat_split v⟩

/-- Settles O24: the scan over the droppabilities, which are one fewer than the blocks. -/
theorem trimIsTheForwardScan : Obligations.TrimIsTheForwardScan := by
  unfold Obligations.TrimIsTheForwardScan
  intro b
  obtain ⟨hpos, hstate⟩ := foldl_scanStep_trimming 0 (droppables b)
  have htrim := trim_eq_length_takeWhile b
  refine ⟨by rw [forwardScan, hpos, htrim, Nat.zero_add], htrim, ?_⟩
  rw [forwardScan, hstate, ← htrim, droppables_length]
  omega

end Sys2Proof.Machine
end

section
/-! PROOFS. The operation word's codec, and steps between transactions (30_encoding.md, rules R50 to R56;
10_state.md, rule R12; 70_reset_and_hazards.md, rules R220 to R229). -/

namespace Sys2Proof

/-! ## The operation word, both ways -/

theorem decodeOp_encode (i : Instr) : decodeOp (encode i) = .ok i := by cases i <;> rfl

/-- The decoder answers an operation on that operation's own word only. -/
theorem encode_of_decodeOp : ∀ op : BitVec 5, ∀ i ∈ (decodeOp op).toOption, encode i = op := by decide

theorem decodeOp_eq_ok_iff (op : BitVec 5) (i : Instr) : decodeOp op = .ok i ↔ op = encode i := by
  constructor
  · intro h
    exact (encode_of_decodeOp op i (by rw [h]; rfl)).symm
  · rintro rfl
    exact decodeOp_encode i

theorem decode_cons_eq_ok_iff (b : Byte) (bs rest : List Byte) (i : Instr) :
    decode (b :: bs) = .ok (i, rest) ↔ b.toNat < 32 ∧ decodeOp (b.setWidth 5) = .ok i ∧ bs = rest := by
  by_cases h : b.toNat < 32
  · cases hd : decodeOp (b.setWidth 5) <;> simp [decode, h, hd]
  · simp [decode, h]

/-- A byte holds an operation word when its low five bits are the word and the others are 0. -/
theorem lt_and_setWidth_eq_iff (b : Byte) (op : BitVec 5) :
    b.toNat < 32 ∧ b.setWidth 5 = op ↔ b = op.setWidth 8 := by
  rw [← BitVec.toNat_inj, ← BitVec.toNat_inj, BitVec.toNat_setWidth, BitVec.toNat_setWidth]
  have := op.isLt
  omega

theorem decode_eq_ok_iff (bs : List Byte) (i : Instr) (rest : List Byte) :
    decode bs = .ok (i, rest) ↔ bs = encodeBytes i ++ rest := by
  cases bs with
  | nil => simp [decode, encodeBytes]
  | cons b bs =>
    rw [decode_cons_eq_ok_iff, decodeOp_eq_ok_iff, ← and_assoc, lt_and_setWidth_eq_iff, encodeBytes,
      List.singleton_append, List.cons.injEq]

/-- The table word of an operation is its one byte. -/
theorem tableBytes_encode (i : Instr) : tableBytes 8 (encode i).toNat = encodeBytes i := by
  have hword : ∀ op : BitVec 5, tableBytes 8 op.toNat = [op.setWidth 8] := by decide
  exact hword (encode i)

theorem decodeTableWord_encode (i : Instr) : decodeTableWord 8 (encode i).toNat = some i := by
  have h : decode (encodeBytes i) = .ok (i, []) := (decode_eq_ok_iff _ i []).mpr (List.append_nil _).symm
  rw [decodeTableWord, tableBytes_encode, h]
  rfl

end Sys2Proof

namespace Sys2Proof.Machine

theorem State.withFetchWord_op_encode (s : State) (i : Instr) :
    (s.withFetchWord 8 (encode i).toNat).inp.op = encode i := by
  have := (encode i).isLt
  rw [State.withFetchWord_op, Nat.mod_eq_of_lt (by omega), BitVec.ofNat_toNat, BitVec.setWidth_eq]

/-! ## Every step -/

/-- Every step completes, over its state's inputs and ROMs (rules R12, R33, R229). -/
theorem step_completes (s : State) : ∃ t, step s = .next t ∧ Over s t := by
  cases hp : s.presented with
  | false => exact ⟨s, step_of_not_presented hp, rfl, rfl, hp⟩
  | true =>
    obtain ⟨o, ho⟩ := step_answers s.inp s.mem
    exact ⟨s.answer o, ho s hp rfl rfl, rfl, rfl, rfl⟩

theorem over_of_step {s t : State} (h : step s = .next t) : Over s t := by
  obtain ⟨t', ht', hover⟩ := step_completes s
  rw [h] at ht'
  cases ht'
  exact hover

/-- A presented transaction's end is a function of its inputs and the ROMs: the step sets all else (rule R12). -/
theorem step_present_congr {s s' : State} (h : s.mem = s'.mem) (i : Inputs) :
    step (s.present i) = step (s'.present i) := by
  obtain ⟨o, ho⟩ := step_answers i s.mem
  have hend : (s.present i).answer o = (s'.present i).answer o := by simp [State.present, State.answer, h]
  rw [ho (s.present i) rfl rfl rfl, ho (s'.present i) rfl rfl h.symm, hend]

theorem step_present_after_step {s t : State} {a : Inputs} (h : step (s.present a) = .next t) (b : Inputs) :
    step (t.present b) = step (s.present b) :=
  step_present_congr (over_of_step h).2.1 b

/-! ## Histories and runs -/

theorem transactions_cons_of_next {i : Inputs} {s t : State} (h : step (s.present i) = .next t) (rest : List Inputs) :
    transactions (i :: rest) s = transactions rest t := by
  rw [transactions, h]

theorem transactions_append_singleton (before : List Inputs) (i : Inputs) (s : State) :
    transactions (before ++ [i]) s = step (s.present i) := by
  induction before generalizing s with
  | nil =>
    obtain ⟨t, ht, -⟩ := step_completes (s.present i)
    rw [List.nil_append, transactions_cons_of_next ht, ht, transactions]
  | cons a before ih =>
    obtain ⟨t, ht, -⟩ := step_completes (s.present a)
    rw [List.cons_append, transactions_cons_of_next ht, ih, step_present_after_step ht]

theorem run_succ_of_next {s t : State} (h : step s = .next t) (k : Nat) :
    Sys2Proof.core.run (k + 1) s = Sys2Proof.core.run k t := by
  have hcore : Sys2Proof.core.step s = .next t := h
  simp only [Host.Core.run, hcore]

/-- An idle block stays as it is (rule R221). -/
theorem run_of_not_presented {s : State} (h : s.presented = false) (k : Nat) : Sys2Proof.core.run k s = .next s := by
  induction k with
  | zero => rfl
  | succ k ih => rw [run_succ_of_next (step_of_not_presented h), ih]

/-- After one step nothing is presented, so the others are idle. -/
theorem run_succ_eq_step (k : Nat) (s : State) : Sys2Proof.core.run (k + 1) s = step s := by
  obtain ⟨t, ht, -, -, hidle⟩ := step_completes s
  exact (run_succ_of_next ht k).trans ((run_of_not_presented hidle k).trans ht.symm)

theorem safeRun_succ (k : Nat) (s : State) : SafeRun (k + 1) s := by
  obtain ⟨t, ht, -⟩ := step_completes s
  exact ⟨t, (run_succ_eq_step k s).trans ht⟩

/-! ## The obligations -/

/-- Settles O1: the byte's low five bits are the word, and the decoder inverts the table of words. -/
theorem decodeAcceptsExactlyTheEncodedWords : Obligations.DecodeAcceptsExactlyTheEncodedWords := by
  unfold Obligations.DecodeAcceptsExactlyTheEncodedWords
  exact decode_eq_ok_iff

/-- Settles O7: an idle step by its equation, any other by the one answer it can give. -/
theorem everyTransactionCompletes : Obligations.EveryTransactionCompletes := by
  unfold Obligations.EveryTransactionCompletes
  exact step_completes

/-- Settles O8: the answer of a step is a function of the inputs and the ROMs. -/
theorem answersDependOnInputsAndRomsOnly : Obligations.AnswersDependOnInputsAndRomsOnly := by
  unfold Obligations.AnswersDependOnInputsAndRomsOnly
  intro s s' hp hp' hinp hmem
  obtain ⟨t, t', ht, ht', hout, -⟩ := step_out_eq_of_same_ports hp hp' hinp hmem
  exact ⟨t, t', ht, ht', hout⟩

/-- Settles O9: the first step keeps the ROMs, and the second sets all else. -/
theorem transactionsAreIndependent : Obligations.TransactionsAreIndependent := by
  unfold Obligations.TransactionsAreIndependent
  intro s a b
  obtain ⟨t, ht, -⟩ := step_completes (s.present a)
  obtain ⟨u, hu, -⟩ := step_completes (s.present b)
  exact ⟨t, u, ht, (step_present_after_step ht b).trans hu, hu⟩

/-- Settles O10: a history by induction on its list, idle steps by the mark that the first step clears. -/
theorem repeatedTransactionsAnswerAlike : Obligations.RepeatedTransactionsAnswerAlike := by
  unfold Obligations.RepeatedTransactionsAnswerAlike
  refine ⟨transactions_append_singleton, fun k i s => ?_, fun k s => ⟨run_succ_eq_step k s, safeRun_succ k s⟩⟩
  rw [List.replicate_succ', transactions_append_singleton]

/-- Settles O14: a step leaves the ROMs as they are. -/
theorem everyStepKeepsTheRomsWellFormed : Obligations.EveryStepKeepsTheRomsWellFormed := by
  unfold Obligations.EveryStepKeepsTheRomsWellFormed
  intro s t hm h
  obtain ⟨-, hmem, -⟩ := over_of_step h
  rwa [hmem]

/-- Settles O55: nothing is presented at reset or after a step, and without a presented transaction the block idles. -/
theorem idleUntilPresentedThenOneTransaction : Obligations.IdleUntilPresentedThenOneTransaction := by
  unfold Obligations.IdleUntilPresentedThenOneTransaction
  refine ⟨State.reset_presented, run_of_not_presented State.reset_presented, fun _ => step_of_not_presented,
    fun s t h => ?_, fun k s i => run_succ_eq_step k (s.present i)⟩
  obtain ⟨-, -, hidle⟩ := over_of_step h
  exact hidle

/-- Settles O3: each written word is its operation's row of the table. -/
theorem writtenWordsDecode : Obligations.WrittenWordsDecode := by
  unfold Obligations.WrittenWordsDecode
  exact ⟨decodeOp_encode .enc24, decodeOp_encode .enc128, decodeOp_encode .dec32u, decodeOp_encode .dec48s,
    decodeOp_encode .valid0, decodeOp_encode .valid64⟩

/-- Settles O4: the step's equation for a word that decodes. -/
theorem stepRunsTheSelectedOperation : Obligations.StepRunsTheSelectedOperation := by
  unfold Obligations.StepRunsTheSelectedOperation
  intro s i
  exact step_of_decode

/-- Settles O5: the table word is the operation's byte, and presenting it puts the operation's word on `op`. -/
theorem fetchWordRunsItsOperation : Obligations.FetchWordRunsItsOperation := by
  unfold Obligations.FetchWordRunsItsOperation
  intro s i
  refine ⟨decodeTableWord_encode i, step_of_decode (State.withFetchWord_presented ..) ?_⟩
  rw [State.withFetchWord_op_encode, decodeOp_encode]

/-- Settles O13: the alphabet carries its proof of rule R80, and `INV` is built from `FWD`. -/
theorem resetRomsAreWellFormed : Obligations.ResetRomsAreWellFormed := by
  unfold Obligations.ResetRomsAreWellFormed
  exact State.reset_mem_wf

end Sys2Proof.Machine
end

section
/-! PROOFS. The output ports, and what an operation does not read (10_state.md, rules R12 to R14). -/

namespace Sys2Proof.Machine

/-! ## The rules of the output ports -/

/-- Everything an operation can answer: a status, a result, or a token that fits the port. -/
theorem exec_answer_cases (i : Instr) (s : State) :
    (∃ st, AnswersStatus i s st) ∨ (∃ r, AnswersResult i s r) ∨
      ∃ vals : List Block, vals.length ≤ 22 ∧ AnswersBlocks i s vals := by
  have henc {w : Nat} {operand : Inputs → BitVec w} (hx : ∀ s, exec i s = encodeWith (operand s.inp) s)
      (hw : blocksOf w ≤ 22) : ∃ vals : List Block, vals.length ≤ 22 ∧ AnswersBlocks i s vals :=
    ⟨_, (encodeBlocks_length_le _).trans hw, answersBlocks_of_encodeWith hx hw s⟩
  by_cases hc : i.opClass = .enc
  · refine .inr (.inr ?_)
    cases i with
    | enc24 => exact henc exec_enc24 (by decide)
    | enc32 => exact henc exec_enc32 (by decide)
    | enc48 => exact henc exec_enc48 (by decide)
    | enc64 => exact henc exec_enc64 (by decide)
    | enc128 => exact henc exec_enc128 (by decide)
    | _ => exact nomatch hc
  · obtain ⟨h, -⟩ | ⟨-, w, result, hx⟩ | ⟨-, e, hx⟩ := exec_cases i s
    · exact absurd h hc
    · obtain ⟨-, hr⟩ | ⟨-, -, hr⟩ | ⟨-, -, hr⟩ := decodeWith_cases w result s
      · exact .inl ⟨_, answersStatus_of_next (hx.trans hr)⟩
      · exact .inl ⟨_, answersStatus_of_next (hx.trans hr)⟩
      · exact .inr (.inl ⟨_, answersResult_of_next (hx.trans hr)⟩)
    · obtain ⟨-, hr⟩ | ⟨-, hr⟩ := validWith_cases e s
      · exact .inl ⟨_, answersStatus_of_next (hx.trans hr)⟩
      · exact .inl ⟨_, answersStatus_of_next (hx.trans hr)⟩

theorem listedCode_mem (st : Status) : listedCode st ∈ [0#3, 1#3, 2#3, 3#3, 4#3, 7#3] := by cases st <;> decide

/-- Ports without a token obey the rules when the status is listed and nothing stands beside an error. -/
theorem outputsOk_of_noToken {o : Outputs} (m : Memory) (hst : o.status ∈ [0#3, 1#3, 2#3, 3#3, 4#3, 7#3])
    (htok : NoToken o) (herr : o.status ≠ 0#3 → NoData o) : OutputsOk m o := by
  obtain ⟨hlen, hlanes⟩ := htok
  exact {
    status_listed := hst
    error_has_no_data := herr
    token_fits := by simp [hlen]
    characters_are_symbols := fun j hj => by simp [hlen] at hj
    padding_is_zero := fun j hj _ => hlanes j hj
    token_without_result := fun h => absurd hlen h }

theorem outputsOk_of_status (m : Memory) {o : Outputs} {st : Status} (hst : o.status = listedCode st)
    (hdata : NoData o) : OutputsOk m o :=
  outputsOk_of_noToken m (hst ▸ listedCode_mem st) hdata.1 fun _ => hdata

theorem outputsOk_of_carriesBlocks {m : Memory} {o : Outputs} {vals : List Block} (hlen : vals.length ≤ 22)
    (h : CarriesBlocks m o vals) : OutputsOk m o := by
  obtain ⟨hst, htok, hlanes, hhi, hlo⟩ := h
  exact {
    status_listed := by rw [hst]; exact listedCode_mem .ok
    error_has_no_data := fun hne => absurd hst hne
    token_fits := htok ▸ hlen
    characters_are_symbols := fun j hj => by
      rw [htok] at hj
      exact ⟨vals[j], by rw [hlanes j (by omega), List.getElem?_eq_getElem hj]⟩
    padding_is_zero := fun j hj hle => by rw [hlanes j hj, List.getElem?_eq_none (htok ▸ hle)]
    token_without_result := fun _ => ⟨hhi, hlo⟩ }

/-- Every operation's answer obeys the rules of the output ports (rule R14). -/
theorem exec_outputsOk {i : Instr} {s t : State} (h : exec i s = .next t) : OutputsOk t.mem t.out := by
  obtain ⟨st, t', ht', ⟨-, -, -⟩, hst, hdata⟩ | ⟨r, t', ht', ⟨-, -, -⟩, hst, htok, -, -⟩ |
    ⟨vals, hlen, t', ht', ⟨-, hmem, -⟩, hcarry⟩ := exec_answer_cases i s
  all_goals
    rw [h] at ht'
    cases ht'
  · exact outputsOk_of_status t.mem hst hdata
  · exact outputsOk_of_noToken t.mem (by rw [hst]; exact listedCode_mem .ok) htok fun hne => absurd hst hne
  · exact outputsOk_of_carriesBlocks hlen (hmem ▸ hcarry)

/-- A step answers by the rules, or leaves ports as they are that obeyed them before. -/
theorem step_outputsOk {s t : State} (hs : s.presented = true ∨ OutputsOk s.mem s.out) (h : step s = .next t) :
    OutputsOk t.mem t.out := by
  cases hp : s.presented with
  | false =>
    rw [step_of_not_presented hp] at h
    cases h
    exact hs.resolve_left (by simp [hp])
  | true =>
    cases hd : decodeOp s.inp.op with
    | ok i => exact exec_outputsOk ((step_of_decode hp hd).symm.trans h)
    | error e =>
      rw [step_of_reserved hp hd] at h
      cases h
      exact outputsOk_of_status s.mem (code_eq_listedCode .illegalReq) (statusOutputs_noData .illegalReq)

/-- The symbols of well-formed ROMs are codes from 32 on (rule R80 (c)). -/
theorem symbolOf_ge_of_wf {m : Memory} (h : m.wf) (v : Block) : 32 ≤ (symbolOf m v).toNat :=
  h.1.1 _ ((mem_fwd_toList_iff m _).mpr ⟨v, rfl⟩)

/-- A symbol's lane is a byte from 32 to 127. -/
theorem laneOf_symbolOf_range {m : Memory} (h : m.wf) (v : Block) :
    32 ≤ (laneOf (symbolOf m v)).toNat ∧ (laneOf (symbolOf m v)).toNat ≤ 127 := by
  have hlane : laneOf (symbolOf m v) = (symbolOf m v).setWidth 8 := (BitVec.setWidth_eq_append (by decide)).symm
  have hlt := (symbolOf m v).isLt
  rw [hlane, BitVec.toNat_setWidth_of_le (by decide)]
  exact ⟨symbolOf_ge_of_wf h v, by omega⟩

/-! ## What an operation does not read -/

/-- The blocks' symbols are read from `FWD` alone. -/
theorem encodeValue_congr {w : Nat} {m m' : Memory} (h : m.fwd = m'.fwd) (v : BitVec w) :
    encodeValue m v = encodeValue m' v := by
  have hsym : symbolOf m = symbolOf m' := by
    funext b
    simp only [symbolOf, readFwd, h]
  rw [encodeValue, encodeValue, hsym]

theorem encodeWith_out_congr {w : Nat} {enc : Instr} {operand : Inputs → BitVec w}
    (hx : ∀ s, exec enc s = encodeWith (operand s.inp) s) {s s' : State} (hm : s.mem.fwd = s'.mem.fwd)
    (ho : operand s.inp = operand s'.inp) :
    ∃ t t', exec enc s = .next t ∧ exec enc s' = .next t' ∧ t.out = t'.out := by
  refine ⟨_, _, (hx s).trans (encodeWith_next _ s), (hx s').trans (encodeWith_next _ s'), ?_⟩
  rw [State.answer_out, State.answer_out, ho, encodeValue_congr hm]

/-- A class and a character's value are read from `INV` alone. -/
theorem readInv_congr {m m' : Memory} (h : m.inv = m'.inv) : readInv m = readInv m' := by
  funext c
  simp only [readInv, h]

theorem charValue_congr {m m' : Memory} (h : m.inv = m'.inv) : charValue m = charValue m' := by
  funext b
  rw [charValue, charValue, readInv_congr h]

theorem valid_congr {m m' : Memory} (h : m.inv = m'.inv) (tok : List Byte) (e : Nat) :
    valid m tok e = valid m' tok e := by
  have hsym : notSymbol m = notSymbol m' := by
    funext b
    rw [notSymbol, notSymbol, readInv_congr h]
  have hlen : lengthBad m tok e = lengthBad m' tok e := by
    unfold lengthBad
    rw [charValue_congr h]
  rw [valid, valid, hsym, hlen]

/-- The token is the lanes below its length. -/
theorem tokenOperand_congr {inp inp' : Inputs} (hlen : inp.tokInLen = inp'.tokInLen)
    (h : ∀ j < inp.tokInLen.toNat, laneIn inp j = laneIn inp' j) : tokenOperand inp = tokenOperand inp' := by
  refine List.ext_getElem? fun j => ?_
  by_cases hj : j < inp.tokInLen.toNat ∧ j < 23
  · obtain ⟨hj, h23⟩ := hj
    rw [tokenOperand_getElem? _ hj h23, tokenOperand_getElem? _ (hlen ▸ hj) h23, h j hj]
  · rw [List.getElem?_eq_none (by rw [tokenOperand_length]; omega),
      List.getElem?_eq_none (by rw [tokenOperand_length, ← hlen]; omega)]

/-- The outputs of a decode: the refusal of its string's class, or the result of the characters' values (rule R146). -/
def decodeOutputs (w : Nat) (result : List Block → Word128) (s : State) : Outputs :=
  if tokenClass w s = .ok then resultOutputs (result ((tokenOperand s.inp).map (charValue s.mem)))
  else statusOutputs (tokenClass w s)

theorem validWith_next (e : Nat) (s : State) : validWith e s = .next (s.answer (statusOutputs (tokenClass e s))) := by
  obtain ⟨hlen, hr⟩ | ⟨hlen, hr⟩ := validWith_cases e s
  · rw [hr, tokenClass_of_tooWide hlen]
  · rw [hr, tokenClass_of_legal hlen]

theorem decodeWith_next (w : Nat) (result : List Block → Word128) (s : State) :
    decodeWith w result s = .next (s.answer (decodeOutputs w result s)) := by
  rw [decodeOutputs]
  obtain ⟨hlen, hr⟩ | ⟨hlen, hno, hr⟩ | ⟨hlen, hok, hr⟩ := decodeWith_cases w result s
  · rw [hr, tokenClass_of_tooWide hlen, if_neg nofun]
  · rw [hr, tokenClass_of_legal hlen, if_neg hno]
  · rw [hr, tokenClass_of_legal hlen, if_pos hok]

/-- Two states hold the same `INV`, and the same token is presented to both. -/
structure SameToken (s s' : State) : Prop where
  /-- The contents of `INV` (rule R31). -/
  inv_eq : s.mem.inv = s'.mem.inv
  /-- The presented length, which the port may not hold (rule R58 (b)). -/
  length_eq : s.inp.tokInLen = s'.inp.tokInLen
  /-- The lanes below it. -/
  lanes_eq : ∀ j < s.inp.tokInLen.toNat, laneIn s.inp j = laneIn s'.inp j

theorem SameToken.tokenClass_eq {s s' : State} (h : SameToken s s') (e : Nat) : tokenClass e s = tokenClass e s' := by
  simp only [tokenClass, tokenTooWide_iff, h.length_eq, tokenOperand_congr h.length_eq h.lanes_eq,
    valid_congr h.inv_eq]

theorem SameToken.decodeOutputs_eq {s s' : State} (h : SameToken s s') (w : Nat) (result : List Block → Word128) :
    decodeOutputs w result s = decodeOutputs w result s' := by
  rw [decodeOutputs, decodeOutputs, h.tokenClass_eq, tokenOperand_congr h.length_eq h.lanes_eq,
    charValue_congr h.inv_eq]

/-- A decode or a validate is the shared transaction in every state (rule R55). -/
theorem exec_token_cases {i : Instr} (hi : i.opClass ≠ .enc) :
    (∃ w result, ∀ s, exec i s = decodeWith w result s) ∨ ∃ e, ∀ s, exec i s = validWith e s := by
  cases i with
  | enc24 | enc32 | enc48 | enc64 | enc128 => exact absurd rfl hi
  | dec24u => exact .inl ⟨_, _, exec_dec24u⟩
  | dec32u => exact .inl ⟨_, _, exec_dec32u⟩
  | dec48u => exact .inl ⟨_, _, exec_dec48u⟩
  | dec64u => exact .inl ⟨_, _, exec_dec64u⟩
  | dec128u => exact .inl ⟨_, _, exec_dec128u⟩
  | dec24s => exact .inl ⟨_, _, exec_dec24s⟩
  | dec32s => exact .inl ⟨_, _, exec_dec32s⟩
  | dec48s => exact .inl ⟨_, _, exec_dec48s⟩
  | dec64s => exact .inl ⟨_, _, exec_dec64s⟩
  | dec128s => exact .inl ⟨_, _, exec_dec128s⟩
  | valid0 => exact .inr ⟨_, exec_valid0⟩
  | valid24 => exact .inr ⟨_, exec_valid24⟩
  | valid32 => exact .inr ⟨_, exec_valid32⟩
  | valid48 => exact .inr ⟨_, exec_valid48⟩
  | valid64 => exact .inr ⟨_, exec_valid64⟩
  | valid128 => exact .inr ⟨_, exec_valid128⟩

theorem SameToken.exec_out_eq {s s' : State} (h : SameToken s s') {i : Instr} (hi : i.opClass ≠ .enc) :
    ∃ t t', exec i s = .next t ∧ exec i s' = .next t' ∧ t.out = t'.out := by
  obtain ⟨w, result, hx⟩ | ⟨e, hx⟩ := exec_token_cases hi
  · exact ⟨_, _, (hx s).trans (decodeWith_next ..), (hx s').trans (decodeWith_next ..), h.decodeOutputs_eq w result⟩
  · exact ⟨_, _, (hx s).trans (validWith_next ..), (hx s').trans (validWith_next ..),
      congrArg statusOutputs (h.tokenClass_eq e)⟩

/-! ## The obligations -/

/-- Settles O15: every answer is one of three forms, each of which obeys the rules; a symbol's code is at least 32. -/
theorem everyAnswerMeetsThePortRules : Obligations.EveryAnswerMeetsThePortRules := by
  unfold Obligations.EveryAnswerMeetsThePortRules
  intro s t hs h
  have hok := step_outputsOk hs h
  obtain ⟨-, hmem, -⟩ := over_of_step h
  refine ⟨hok, fun hm j hj => ?_⟩
  obtain ⟨v, hv⟩ := hok.characters_are_symbols j hj
  rw [hv, hmem]
  exact laneOf_symbolOf_range hm v

/-- Settles O11: each encode's outputs are the symbols of its operand's blocks. -/
theorem encodersIgnoreWhatTheyDoNotRead : Obligations.EncodersIgnoreWhatTheyDoNotRead := by
  unfold Obligations.EncodersIgnoreWhatTheyDoNotRead
  refine ⟨fun _ _ => encodeWith_out_congr exec_enc24, fun _ _ => encodeWith_out_congr exec_enc32,
    fun _ _ => encodeWith_out_congr exec_enc48, fun _ _ => encodeWith_out_congr exec_enc64, fun s s' hm hhi hlo => ?_⟩
  exact encodeWith_out_congr exec_enc128 hm (by rw [intOperand128, intOperand128, hhi, hlo])

/-- Settles O12: the class and the characters' values are functions of the token and `INV`. -/
theorem tokenOperationsIgnoreWhatTheyDoNotRead : Obligations.TokenOperationsIgnoreWhatTheyDoNotRead := by
  unfold Obligations.TokenOperationsIgnoreWhatTheyDoNotRead
  intro i hi s s' hinv hlen hlanes
  exact SameToken.exec_out_eq ⟨hinv, hlen, hlanes⟩ hi

end Sys2Proof.Machine
end

section
/-! PROOFS. Across the components: the alphabet through the operations, encodes against validates, and tokens at
several widths (40_alphabet.md section 2; 45_validator.md, rule R173; 70_reset_and_hazards.md, rules R226, R227). -/

namespace Sys2Proof.Machine

/-! ## How many codes are symbols -/

theorem invFlag_eq_false_iff_isSome (m : Memory) (c : Code) :
    invFlag (readInv m c) = false ↔ (valueOf m c).isSome = true := by
  cases h : invFlag (readInv m c) <;> simp [valueOf, h]

theorem symbolCodes_eq (m : Memory) :
    ((List.range 128).filter fun c => !invFlag (readInv m (BitVec.ofNat 7 c))) = valuedCodes m :=
  List.filter_congr fun c _ => by
    rw [Bool.eq_iff_iff, Bool.not_eq_true', invFlag_eq_false_iff_isSome]

/-- Each code is a symbol or it is not. -/
theorem nonSymbolCodes_length {m : Memory} (h : m.wf) :
    ((List.range 128).filter fun c => invFlag (readInv m (BitVec.ofNat 7 c))).length = 64 := by
  have hsplit := List.length_eq_length_filter_add (l := List.range 128)
    fun c => invFlag (readInv m (BitVec.ofNat 7 c))
  rw [symbolCodes_eq, valuedCodes_length h, List.length_range] at hsplit
  omega

/-- The value field of a symbol's word is the value whose symbol it is. -/
theorem symbolOf_invVal {m : Memory} (h : m.wf) {c : Code} (hc : invFlag (readInv m c) = false) :
    symbolOf m (invVal (readInv m c)) = c :=
  (valueOf_eq_some_iff h c _).mp (by simp [valueOf, hc])

/-- No symbol is below 32 (rule R32). -/
theorem invFlag_of_lt {m : Memory} (h : m.wf) {c : Code} (hc : c.toNat < 32) : invFlag (readInv m c) = true := by
  by_contra hno
  have hge := symbolOf_ge_of_wf h (invVal (readInv m c))
  rw [symbolOf_invVal h (by simpa using hno)] at hge
  omega

/-! ## Tokens of one character -/

/-- The value of a one-character token: −1 for 63, else the character's value (rule R134). -/
theorem decodeValue_singleton (w : Nat) (b : Block) :
    decodeValue w [b] = if b = 63#6 then BitVec.allOnes w else b.setWidth w := by
  rw [decodeValue, seed_cons, List.foldl_cons, List.foldl_nil]
  split
  · next h => rw [h, accStep_allOnes]
  · simp [accStep]

/-- A value that one character decodes to is encoded as that character. -/
theorem encodeBlocks_decodeValue_singleton {w : Nat} (hw : 1 < blocksOf w) (b : Block) :
    encodeBlocks (decodeValue w [b]) = [b] := by
  have hpos : 0 < w := by unfold blocksOf at hw; omega
  have hle := encodeBlocks_length_le_of_decodeValue hpos (List.cons_ne_nil b []) rfl
  have hge := encodeBlocks_length_pos hpos (decodeValue w [b])
  refine (eq_encodeBlocks_of_decodeValue hpos (by rw [List.length_singleton] at *; omega) rfl fun h => ?_).symm
  rw [List.length_singleton] at h
  omega

/-- A single character fits every width of more than one block, whatever may lead a full-length token. -/
theorem fitsWidth_singleton {n : Nat} (h : 1 < n) (leads : List Block) (b : Block) : FitsWidth n leads [b] :=
  ⟨le_refl 1, h.le, fun hfull => absurd hfull h.ne⟩

theorem enc24_answers_singleton {s : State} {b : Block} (h : s.inp.valLo.extractLsb' 0 24 = decodeValue 24 [b]) :
    AnswersBlocks .enc24 s [b] := by
  have hx := answersBlocks_of_encodeWith exec_enc24 (by decide) s
  rwa [intOperand, h, encodeBlocks_decodeValue_singleton (by decide)] at hx

section
variable {s : State} {c : Code} (hlen : s.inp.tokInLen = 1#5) (hlane : laneIn s.inp 0 = 0#1 ++ c)
include hlen hlane

theorem symbolToken_singleton (hm : s.mem.wf) {v : Block} (hv : valueOf s.mem c = some v) : SymbolToken s [v] := by
  have hc := (valueOf_eq_some_iff hm c v).mp hv
  refine symbolToken_of_presentsBytes hm (by simp) ⟨by rw [hlen]; rfl, fun j hj => ?_⟩
  obtain rfl : j = 0 := by simpa using hj
  rw [hlane, ← hc]
  rfl

/-- A character without a value is no symbol (rule R163). -/
theorem valid0_answers_wrongChar (hc : valueOf s.mem c = none) : AnswersStatus .valid0 s .wrongChar := by
  obtain ⟨-, -, -, hwrong⟩ := refusesBadStrings_of_validWith exec_valid0
  have hn : s.inp.tokInLen.toNat = 1 := by rw [hlen]; rfl
  refine hwrong s hn.ge (by omega) ?_ ⟨0, by omega, ?_⟩
  · rintro ⟨j, hj, hbit⟩
    obtain rfl : j = 0 := by omega
    rw [hlane] at hbit
    exact absurd hbit (by simpa [laneOf] using laneOf_bit_seven c)
  · rw [hlane]
    exact (valueOf_eq_none_iff_invFlag s.mem _).mp (by simpa using (codeOf_laneOf c).symm ▸ hc)

end

/-! ## A width's operations together -/

/-- Two decodes and a validate of one width report one class (rule R226). -/
theorem DecodePair.sameStatus {decu decs val : Instr} {w : Nat} {leads : List Block} (hp : DecodePair decu decs w leads)
    (hx : ∀ s, exec val s = validWith w s) : SameStatus decu decs val := by
  intro s
  obtain ⟨tu, hu, hsu⟩ := reportsClass_of_decodeWith hp.unsigned s
  obtain ⟨ts, hs, hss⟩ := reportsClass_of_decodeWith hp.signed s
  obtain ⟨tv, hv, hsv⟩ := reportsClass_of_validWith hx s
  exact ⟨tu, ts, tv, hu, hs, hv, hsu.trans hsv.symm, hss.trans hsv.symm⟩

/-- The encode and the validate of a width with two decodes: the token's blocks fit the width. -/
theorem DecodePair.encodesAcceptedTokens {enc val decu decs : Instr} {w : Nat} {leads : List Block}
    {operand : Inputs → BitVec w} (hp : DecodePair decu decs w leads)
    (hx : ∀ s, exec enc s = encodeWith (operand s.inp) s) (hv : ∀ s, exec val s = validWith w s) :
    EncodesAcceptedTokens enc val := by
  intro s hm
  obtain ⟨t, ht, -, hc⟩ := answersBlocks_of_encodeWith hx hp.fits_port s
  refine ⟨t, ht, fun u hu htok => ?_⟩
  rw [← hu] at hm hc
  have hlen := (encodeBlocks_length_le (operand s.inp)).trans hp.fits_port
  have hsym := symbolToken_of_carriesBlocks hm hlen hc htok
  obtain ⟨haccept, -⟩ := validatesTokens_of_validWith hv hp.width_pos hp.leads_of
  exact ⟨haccept u _ hsym (encodeBlocks_fitsWidth hp.width_pos hp.leads_of _),
    valid0_answers_ok hsym (encodeBlocks_length_pos hp.width_pos _)⟩

/-! ## The obligations -/

/-- Settles O17: the inverse at every symbol, and the symbols counted as the codes with a value. -/
theorem inverseRomUndoesForwardRom : Obligations.InverseRomUndoesForwardRom := by
  unfold Obligations.InverseRomUndoesForwardRom
  refine fun m h => ⟨readInv_symbolOf h, fun c => symbolOf_invVal h, ?_, nonSymbolCodes_length h,
    fun c => invFlag_of_lt h⟩
  rw [symbolCodes_eq, valuedCodes_length h]

/-- Settles O19: one character and its value, both ways, at the ports. -/
theorem alphabetReadsOutThroughOperations : Obligations.AlphabetReadsOutThroughOperations := by
  unfold Obligations.AlphabetReadsOutThroughOperations
  intro s hm
  refine ⟨fun v hv h => enc24_answers_singleton ?_, fun h => enc24_answers_singleton h, fun c hlen hlane =>
    ⟨valid0_answers_wrongChar hlen hlane, fun v hv => ?_⟩⟩
  · rw [h, decodeValue_singleton, if_neg hv]
  have htok := symbolToken_singleton hlen hlane hm hv
  obtain ⟨hres, -⟩ := decodePair_24.answersResult htok (fitsWidth_singleton (by decide) anyLead v)
  refine ⟨valid0_answers_ok htok (le_refl _), ?_⟩
  rw [decodeValue_singleton] at hres
  by_cases h63 : v = 63#6
  · rwa [if_pos h63] at hres ⊢
  · have hwiden : (v.setWidth 24).setWidth 128 = v.setWidth 128 := by simp
    rw [if_neg h63, hwiden] at hres
    rwa [if_neg h63]

/-- Settles O49: each width's three operations report one class. -/
theorem decodersReportWhatTheValidatorReports : Obligations.DecodersReportWhatTheValidatorReports := by
  unfold Obligations.DecodersReportWhatTheValidatorReports
  exact ⟨decodePair_24.sameStatus exec_valid24, decodePair_32.sameStatus exec_valid32,
    decodePair_48.sameStatus exec_valid48, decodePair_64.sameStatus exec_valid64,
    decodePair_128.sameStatus exec_valid128⟩

/-- Settles O50: each width's encode with its validate. -/
theorem encodedTokensAreAccepted : Obligations.EncodedTokensAreAccepted := by
  unfold Obligations.EncodedTokensAreAccepted
  exact ⟨decodePair_24.encodesAcceptedTokens exec_enc24 exec_valid24,
    decodePair_32.encodesAcceptedTokens exec_enc32 exec_valid32,
    decodePair_48.encodesAcceptedTokens exec_enc48 exec_valid48,
    decodePair_64.encodesAcceptedTokens exec_enc64 exec_valid64,
    decodePair_128.encodesAcceptedTokens exec_enc128 exec_valid128⟩

/-- Settles O53: at every width `[63]` is the seed and `[32, 0, 0, 0]` runs. -/
theorem tokensDoNotRecordTheirWidth : Obligations.TokensDoNotRecordTheirWidth := by
  unfold Obligations.TokensDoNotRecordTheirWidth
  exact ⟨decodePair_24.decodesListed (by decide +kernel), decodePair_32.decodesListed (by decide +kernel),
    decodePair_48.decodesListed (by decide +kernel), decodePair_64.decodesListed (by decide +kernel),
    decodePair_128.decodesListed (by decide +kernel)⟩

/-- Settles O54: the listed tokens fit their widths, and the rows run. -/
theorem acceptedTokensNeedNotBeCanonical : Obligations.AcceptedTokensNeedNotBeCanonical := by
  unfold Obligations.AcceptedTokensNeedNotBeCanonical
  obtain ⟨haccept24, -⟩ := validatesTokens_of_validWith exec_valid24 (by decide) decodePair_24.leads_of
  obtain ⟨haccept32, -⟩ := validatesTokens_of_validWith exec_valid32 (by decide) decodePair_32.leads_of
  exact ⟨decodePair_24.decodesListed (by decide +kernel), decodePair_32.decodesListed (by decide +kernel),
    fun s h => haccept24 s _ h (by decide +kernel), fun s h => haccept32 s _ h (by decide +kernel),
    encodesListed_of_encodeWith exec_enc24 (by decide) (by decide +kernel),
    encodesListed_of_encodeWith exec_enc32 (by decide) (by decide +kernel)⟩

end Sys2Proof.Machine
end
